-- ==== Sys2Proof/Word.lean ====
section
/-! DEFINITION. The word types of the host port and of the byte cells. -/

namespace Sys2Proof

/-- A host word: the only access width of the host port is 32 bits (R70, R76). -/
abbrev Word := BitVec 32

/-- One byte cell (R12, R46). -/
abbrev Byte := BitVec 8

/-- A text value: a finite sequence of ASCII bytes (R12).  A text register of capacity `c` holds a
text of length `0..c`; its length field is the length of the text, and its byte cells beyond the
length hold `0x00`, so the text determines both. -/
abbrev Text := List Byte

end Sys2Proof
end

