-- ==== Sys2Proof/Syntax.lean ====
section
/-! DEFINITION. The command set: one constructor for each row of the opcode table (R103). -/

namespace Sys2Proof

/-- The twelve commands of FT8RX (R103). -/
inductive Instr where
  /-- `NOP` (R300). -/
  | nop
  /-- `SYNC` (R140). -/
  | sync
  /-- `EXTRACT idx` (R160); the operand is an unsigned candidate index (R100). -/
  | extract (idx : Nat)
  /-- `LDPC` (R175). -/
  | ldpc
  /-- `CHECK` (R200). -/
  | check
  /-- `UNPACK` (R215). -/
  | unpack
  /-- `STORE` (R290). -/
  | store
  /-- `DECODE` (R307). -/
  | decode
  /-- `CLRRES` (R301). -/
  | clrres
  /-- `HTADD` (R270). -/
  | htadd
  /-- `HTLOOK` (R276). -/
  | htlook
  /-- `HTLOOK12` (R278). -/
  | htlook12
  deriving DecidableEq, Repr

end Sys2Proof
end

