-- ==== Sys2Proof/WellFormed.lean ====
section
/-! DEFINITION. Which instruction terms have an encoding. -/

namespace Sys2Proof

/-- An instruction is well formed when its operand fits the command word: `ARG` is an unsigned 8-bit
integer (R100), and only EXTRACT has an operand. -/
def Instr.wellFormed : Instr → Bool
  | .extract idx => decide (idx ≤ 255)
  | .nop => true
  | .sync => true
  | .ldpc => true
  | .check => true
  | .unpack => true
  | .store => true
  | .decode => true
  | .clrres => true
  | .htadd => true
  | .htlook => true
  | .htlook12 => true

end Sys2Proof
end

