-- ==== Sys2Proof/Decode.lean ====
section
/-! DEFINITION. The decoder of command words, total on every 32-bit word and rejecting by name, and
after it the encoder, both from R100, R103, R104 and R106. -/

namespace Sys2Proof

/-- Why a command word is illegal (R104).  Each is reported as `E_ILLEGAL`. -/
inductive DecodeError where
  /-- `RSV`, bits 31:16, is not 0. -/
  | reservedBits
  /-- `OP`, bits 7:0, is not in the opcode map of R103. -/
  | unknownOpcode
  /-- `ARG`, bits 15:8, is not 0 and `OP` is not `0x02`. -/
  | operandNotZero
  deriving DecidableEq, Repr

/-- Field `OP` of a command word (R100). -/
def opField (w : Word) : BitVec 8 := w.extractLsb' 0 8

/-- Field `ARG` of a command word (R100). -/
def argField (w : Word) : BitVec 8 := w.extractLsb' 8 8

/-- Field `RSV` of a command word (R100). -/
def rsvField (w : Word) : BitVec 16 := w.extractLsb' 16 16

/-- The opcode map of R103: the command an `OP` value names, with its operand taken from `ARG`. -/
def opcodeMap (op : Nat) (arg : Nat) : Option Instr :=
  match op with
  | 0x00 => some .nop
  | 0x01 => some .sync
  | 0x02 => some (.extract arg)
  | 0x03 => some .ldpc
  | 0x04 => some .check
  | 0x05 => some .unpack
  | 0x06 => some .store
  | 0x07 => some .decode
  | 0x08 => some .clrres
  | 0x10 => some .htadd
  | 0x11 => some .htlook
  | 0x12 => some .htlook12
  | _ => none

/-- The decoder of R105: check `RSV`, look `OP` up, check `ARG`. -/
def decode (w : Word) : Except DecodeError Instr :=
  if rsvField w ≠ 0 then .error .reservedBits
  else
    match opcodeMap (opField w).toNat (argField w).toNat with
    | none => .error .unknownOpcode
    | some i =>
      if opField w ≠ 0x02 ∧ argField w ≠ 0 then .error .operandNotZero else .ok i

/-- The `OP` value of a command (R103). -/
def Instr.opcode : Instr → Nat
  | .nop => 0x00
  | .sync => 0x01
  | .extract _ => 0x02
  | .ldpc => 0x03
  | .check => 0x04
  | .unpack => 0x05
  | .store => 0x06
  | .decode => 0x07
  | .clrres => 0x08
  | .htadd => 0x10
  | .htlook => 0x11
  | .htlook12 => 0x12

/-- The `ARG` value of a command: the candidate index of EXTRACT, 0 for every other (R100). -/
def Instr.arg : Instr → Nat
  | .extract idx => idx
  | .nop => 0
  | .sync => 0
  | .ldpc => 0
  | .check => 0
  | .unpack => 0
  | .store => 0
  | .decode => 0
  | .clrres => 0
  | .htadd => 0
  | .htlook => 0
  | .htlook12 => 0

/-- The command word of a well-formed instruction, `OP | (ARG << 8)` (R106). -/
def encode (i : Instr) : Word := BitVec.ofNat 32 (i.opcode ||| (i.arg <<< 8))

/-- The instruction the decoder reads from a table row's bits.  A command is one 32-bit word, so the
bits above `nbits` are 0 and a word of more than 32 bits is no command. -/
def decodeTableWord (nbits w : Nat) : Option Instr :=
  if nbits ≤ 32 then
    match decode (BitVec.ofNat 32 (w % 2 ^ nbits)) with
    | .ok i => some i
    | .error _ => none
  else none

end Sys2Proof
end

