-- ==== Sys2Proof/Config.lean ====
section
/-! DEFINITION. What an implementation fixes: the constants of R5, the open parameters of R7 (a
record that the model takes as an argument), and the one value the spec leaves free, the contents of
the power matrix after a reset (R352, U1). -/

namespace Sys2Proof.Config

/-- `N`, the number of bits in a codeword and of likelihood values (R5). -/
abbrev codewordBits : Nat := 174

/-- `K`, the number of payload bits (R5). -/
abbrev payloadBits : Nat := 91

/-- `M = N - K`, the number of parity checks (R6). -/
abbrev checkCount : Nat := 83

/-- `RES_CAP`, the cap of the decoded-message set (R5). -/
abbrev resCap : Nat := 6

/-- `LEVEL_CLAMP` (R5). -/
abbrev levelClamp : Int := 160

/-- `LEVEL_DIV` (R5). -/
abbrev levelDiv : Int := 6

/-- `CALL_MAX`, the longest stored callsign (R5). -/
abbrev callMax : Nat := 11

/-- The open parameters of R7.  `h` is the parity-check matrix `H`, row by row: entry `m` is the
list of the columns with a one in row `m`, ascending, that is `Nc(m)` of R176. -/
structure Params where
  /-- `NUM_BLOCKS`: symbol periods covered by the power matrix. -/
  numBlocks : Nat
  /-- `TIME_OSR`: matrix rows per symbol period. -/
  timeOsr : Nat
  /-- `NUM_BINS`: frequency bins per row and sub-offset. -/
  numBins : Nat
  /-- `CAND_CAP`: depth of the candidate list. -/
  candCap : Nat
  /-- `HT_CAP`: number of hash table slots. -/
  htCap : Nat
  /-- `H`, as the rows `Nc(0), ..., Nc(82)`. -/
  h : List (List Nat)
  deriving DecidableEq, Repr, Inhabited

/-- `NUM_ROWS = NUM_BLOCKS * TIME_OSR` (R7). -/
def Params.numRows (p : Params) : Nat := p.numBlocks * p.timeOsr

/-- `PM_BYTES = NUM_ROWS * 2 * NUM_BINS` (R46). -/
def Params.pmBytes (p : Params) : Nat := p.numRows * 2 * p.numBins

/-- `PM_WORDS = ceil(PM_BYTES / 4)` (R74). -/
def Params.pmWords (p : Params) : Nat := (p.pmBytes + 3) / 4

/-- The constraint of R7 on `H`: 83 rows over 174 columns, at least two ones in every row and at
least one in every column (a row lists its columns in ascending order). -/
def Params.legalMatrix (p : Params) : Bool :=
  p.h.length == checkCount
    && p.h.all (fun row => decide (row.Pairwise (· < ·)) && row.all (· < codewordBits)
        && decide (2 ≤ row.length))
    && (List.range codewordBits).all (fun i => p.h.any (fun row => row.contains i))

/-- All constraints on the open parameters: R7, and the further ones of R38. -/
def Params.legal (p : Params) : Bool :=
  decide (79 ≤ p.numBlocks) && decide (p.numBlocks ≤ 65535)
    && decide (1 ≤ p.timeOsr) && decide (p.timeOsr ≤ 255)
    && decide (8 ≤ p.numBins) && decide (p.numBins ≤ 65535)
    && decide (1 ≤ p.candCap) && decide (p.candCap ≤ 64)
    && decide (1 ≤ p.htCap) && decide (p.htCap ≤ 65535)
    && decide (p.numRows ≤ 32767) && decide (p.pmBytes ≤ 2 ^ 24)
    && p.legalMatrix

/-- The test matrix `H_T` of program P4 in `95_test_vectors.md`: row `m` has ones exactly at the
columns `m`, `(m + 8) mod 91` and `91 + m`.  A legal value of `H`, not the FT8 matrix (R176). -/
def testMatrix : List (List Nat) :=
  (List.range checkCount).map fun m => [m, (m + 8) % 91, 91 + m]

/-- The parameters that `State.reset` takes: those of program P4 in `95_test_vectors.md`, with 16
hash table slots.  DESIGN CHOICE (log entry 1): the spec leaves every one of them open; unsafe for a
statement about `State.reset` alone, and safe for the statements over every legal `Params`. -/
def defaultParams : Params :=
  { numBlocks := 80, timeOsr := 1, numBins := 32, candCap := 16, htCap := 16, h := testMatrix }

/-- The free value of R352 (U1): what cell `c` of the power matrix holds after the reset with number
`epoch`, until the host writes it.  No body, so no proof can know it (log entry 2, safe). -/
opaque pmPowerUp : (epoch : Nat) → (cell : Nat) → Byte

end Sys2Proof.Config
end

