-- ==== Sys2Proof/Machine/State.lean ====
section
/-! DEFINITION. The state of FT8RX as plain data (10_state.md), the reasons a step can stop, and the
machine right after reset (R350 to R352). -/

namespace Sys2Proof.Machine

open Sys2Proof

/-- Why a step ends in a fault.  There is no constructor: nothing in the spec is stuck, every
accepted command completes (R102), every error is a code in `STATUS.ERR` (R320), and every refused
access is a flag (R329).  Nobody raises a fault, which is safe because no behaviour is cut off. -/
inductive Fault where
  deriving DecidableEq, Repr

/-- Why a step is refused. -/
inductive Refusal where
  /-- An instruction without a meaning.  Raised by no arm of `exec`: all twelve commands are
  modelled.  It would be safe, since a refused command claims no effect. -/
  | notModelled (mnemonic : String)
  deriving DecidableEq, Repr

/-- The error codes of `STATUS.ERR` (R321). -/
inductive ErrCode where
  /-- 0 `OK` -/
  | ok
  /-- 1 `E_ILLEGAL` -/
  | illegal
  /-- 2 `E_OPERAND` -/
  | operand
  /-- 3 `E_SEQ` -/
  | seq
  /-- 4 `E_GEOM` -/
  | geom
  /-- 5 `E_HT_INVALID` -/
  | htInvalid
  /-- 6 `E_HT_FULL` -/
  | htFull
  deriving DecidableEq, Repr

/-- `SEQ.PHASE` (R26). -/
inductive Phase where
  /-- 0 -/
  | idle
  /-- 1 -/
  | sync
  /-- 2 -/
  | extract
  /-- 3 -/
  | ldpc
  /-- 4 -/
  | check
  /-- 5 -/
  | unpack
  /-- 6 -/
  | store
  /-- 7 -/
  | hash
  /-- 8 -/
  | clear
  deriving DecidableEq, Repr

/-- `MSG.KIND` (R128); the codes 11 to 15 are never produced, so they have no name. -/
inductive Kind where
  /-- 0 `K_UNKNOWN` -/
  | unknown
  /-- 1 `K_CQ` -/
  | cq
  /-- 2 `K_LOC` -/
  | loc
  /-- 3 `K_RSL` -/
  | rsl
  /-- 4 `K_RRSL` -/
  | rrsl
  /-- 5 `K_RRR` -/
  | rrr
  /-- 6 `K_RR73` -/
  | rr73
  /-- 7 `K_73` -/
  | k73
  /-- 8 `K_BLANK` -/
  | blank
  /-- 9 `K_FREE` -/
  | free
  /-- 10 `K_TELEMETRY` -/
  | telemetry
  deriving DecidableEq, Repr

/-- `MSG_STAT.UFAIL` (R130); the code 7 is never produced. -/
inductive UFail where
  /-- 0 `UF_NONE` -/
  | none
  /-- 1 `UF_TAG` -/
  | tag
  /-- 2 `UF_TOKEN` -/
  | token
  /-- 3 `UF_REPORT` -/
  | report
  /-- 4 `UF_TEXT` -/
  | text
  /-- 5 `UF_CALL` -/
  | call
  /-- 6 `UF_EMPTY` -/
  | empty
  deriving DecidableEq, Repr

/-- `DISP[i]` (R131); the codes 7 to 15 are never produced. -/
inductive Disposition where
  /-- 0 `DP_NONE` -/
  | none
  /-- 1 `DP_STORED` -/
  | stored
  /-- 2 `DP_LDPC` -/
  | ldpc
  /-- 3 `DP_CRC` -/
  | crc
  /-- 4 `DP_UNPACK` -/
  | unpack
  /-- 5 `DP_DUP` -/
  | dup
  /-- 6 `DP_FULL` -/
  | full
  deriving DecidableEq, Repr

/-- One entry of the candidate list `CL` (R22). -/
structure Candidate where
  /-- signed -/
  score : BitVec 16
  /-- signed, in matrix rows (R141) -/
  timeOffset : BitVec 16
  freqOffset : BitVec 16
  freqSub : BitVec 1
  deriving DecidableEq, Repr

/-- The all-zero entry of R22 and R140. -/
def Candidate.zero : Candidate :=
  { score := 0, timeOffset := 0, freqOffset := 0, freqSub := 0 }

/-- The four stage flags of `VALID` (R28). -/
structure Valid where
  /-- bit 0 `LLR_RDY` -/
  llrRdy : Bool
  /-- bit 1 `CW_OK` -/
  cwOk : Bool
  /-- bit 2 `PAY_OK` -/
  payOk : Bool
  /-- bit 3 `MSG_OK` -/
  msgOk : Bool
  deriving DecidableEq, Repr

/-- `VALID = 0`. -/
def Valid.clear : Valid := { llrRdy := false, cwOk := false, payOk := false, msgOk := false }

/-- The unpacked message `MSG` (R27): three texts and the tags.  `F1LEN`, `F2LEN`, `F3LEN` are the
lengths of the texts (R12).  `loc` holds the four locator bytes, byte 0 in bits 7:0. -/
structure Msg where
  f1 : Text
  f2 : Text
  f3 : Text
  kind : Kind
  hashMiss : Bool
  locValid : Bool
  loc : Word
  deriving DecidableEq, Repr

/-- `MSG` all zero (R215): texts empty, `K_UNKNOWN`, flags 0. -/
def Msg.zero : Msg :=
  { f1 := [], f2 := [], f3 := [], kind := .unknown, hashMiss := false, locValid := false, loc := 0 }

/-- One record of the result store (R44, R294). -/
structure Record where
  /-- words 0 to 12: header, `F1`, `F2`, `F3`, `LOC` -/
  msg : Msg
  score : BitVec 16
  freqHz : BitVec 16
  timeOffset : BitVec 16
  level : BitVec 16
  freqSub : BitVec 1
  freqOffset : BitVec 16
  slotSeq : Word
  timestamp : Word
  a91 : BitVec 96
  cand : BitVec 7
  deriving DecidableEq, Repr

/-- One slot in use of the hash table (R43); its `len` is the length of the text. -/
structure Slot where
  key : BitVec 22
  text : Text
  deriving DecidableEq, Repr

/-- The written cells of the power matrix `PM` (R46), as pairs of a cell number and a byte in strictly
rising order of cell number.  A cell that is not listed has not been written since the last reset and
reads as the free value `Config.pmPowerUp` (R352). -/
abbrev Memory := List Host.Cell

/-- What happens at the block's pins, in the one total order of R79 and R365.  The MODEL's own: the
host and the reset input are outside the block, and a turn of the engine stands for the moment at
which the engine completes the command it runs (R79). -/
inductive Event where
  /-- `MemRead(addr, 4)` (R71). -/
  | read (addr : BitVec 25)
  /-- `MemWrite(addr, 4, v)` (R72). -/
  | write (addr : BitVec 25) (v : Word)
  /-- The engine executes the accepted command to its completion (R79). -/
  | engine
  /-- The reset input is asserted (R350). -/
  | assertReset
  /-- The reset input is released (R350). -/
  | releaseReset
  deriving DecidableEq, Repr

/-- The state of FT8RX.  Plain data; the bits of `HARD` and `A91` are numbered from the most
significant bit (R10), so `HARD[i]` is `hard.getMsbD i`. -/
structure State where
  /-- The open parameters of R7: the configuration record the model takes as an argument.  Nothing
  changes it (R21). -/
  cfg : Config.Params
  /-- `CTRL.IE` (R41) -/
  ie : Bool
  /-- `MIN_SCORE`, signed (R30) -/
  minScore : BitVec 16
  /-- `MAX_CAND` (R31) -/
  maxCand : BitVec 7
  /-- `MAX_ITER` (R32) -/
  maxIter : BitVec 8
  /-- `SYNC_MAP` (R33) -/
  syncMap : BitVec 21
  /-- `GRAY_MAP` (R34) -/
  grayMap : BitVec 24
  /-- `BASE_BIN` (R35) -/
  baseBin : BitVec 16
  /-- `SLOT_SEQ` (R36) -/
  slotSeq : Word
  /-- `TIMESTAMP` (R36) -/
  timestamp : Word
  /-- The accepted command word the engine is executing (R101, R39); `STATUS.BUSY` is 1 exactly while
  there is one (R40). -/
  running : Option Word
  /-- `STATUS.DONE` (R40) -/
  done : Bool
  /-- `STATUS.ERR` (R40, R321) -/
  err : ErrCode
  /-- `STATUS.CMD_DROPPED` (R40) -/
  cmdDropped : Bool
  /-- `STATUS.BUSY_ACC` (R40) -/
  busyAcc : Bool
  /-- `STATUS.BAD_ACC` (R40) -/
  badAcc : Bool
  /-- `STATUS.LAST_OP` (R40) -/
  lastOp : BitVec 8
  /-- `VALID` (R28) -/
  valid : Valid
  /-- `SEQ.PHASE` (R26) -/
  phase : Phase
  /-- `SEQ.CAND_IDX` (R26) -/
  candIdx : BitVec 7
  /-- `SEQ.CUR_CAND` (R26) -/
  curCand : BitVec 7
  /-- `CAND_COUNT` (R37) -/
  candCount : BitVec 7
  /-- `CL[0..CAND_CAP-1]` (R22) -/
  cl : List Candidate
  /-- `DISP[0..CAND_CAP-1]` (R45) -/
  disp : List Disposition
  /-- `LLR[0..173]`, signed 16-bit entries (R23) -/
  llr : List (BitVec 16)
  /-- `HARD[0..173]` (R24) -/
  hard : BitVec 174
  /-- `A91[0..95]` (R25) -/
  a91 : BitVec 96
  /-- `MSG` (R27) -/
  msg : Msg
  /-- `LDPC_STAT.ERRORS` (R29) -/
  ldpcErrors : BitVec 8
  /-- `LDPC_STAT.ITER_CNT` (R29) -/
  ldpcIter : BitVec 8
  /-- `CRC_STAT.CRC_RX` (R29) -/
  crcRx : BitVec 14
  /-- `CRC_STAT.CRC_CALC` (R29) -/
  crcCalc : BitVec 14
  /-- `CRC_STAT.CRC_OK` (R29) -/
  crcOk : Bool
  /-- `MSG_STAT.UFAIL` (R29, R130) -/
  ufail : UFail
  /-- `MSG_STAT.I3` (R29) -/
  i3 : BitVec 3
  /-- `MSG_STAT.N3` (R29) -/
  n3 : BitVec 3
  /-- The records of `RES` in use; `RES_COUNT` is their number, the others are all zero (R44). -/
  res : List Record
  /-- The slots of `HT` in use, in the order they were first filled; `HT_COUNT` is their number, the
  others are all zero (R43). -/
  ht : List Slot
  /-- `HT_KEY_IN` (R42) -/
  htKeyIn : BitVec 22
  /-- `HT_KEY_OUT` (R42) -/
  htKeyOut : Word
  /-- `HT_LEN_IN` (R42) -/
  htLenIn : BitVec 5
  /-- `HT_TEXT_IN`, 16 byte cells (R42) -/
  htTextIn : List Byte
  /-- `HT_TEXT_OUT` with `HT_LEN_OUT`, its length (R42, R12) -/
  htTextOut : Text
  /-- The written cells of `PM` (R46) -/
  pm : Memory
  /-- The MODEL's own: how many resets there have been, so that the free contents of `PM` may differ
  from one reset to the next (R352). -/
  resetEpoch : Nat
  /-- The reset input is asserted (R350). -/
  inReset : Bool
  /-- The MODEL's own: what happens at the pins next, in order (R79). -/
  inputs : List Event
  /-- The MODEL's own: the word the last host read returned (R71). -/
  readData : Word
  deriving DecidableEq, Repr

/-- The state right after reset for the configuration `p` (R351 and the table of 10_state.md section
8), with no cell of `PM` written (R352) and nothing waiting at the pins. -/
def State.resetWith (p : Config.Params) : State :=
  { cfg := p
    ie := false
    minScore := 40
    maxCand := BitVec.ofNat 7 p.candCap
    maxIter := 10
    syncMap := 0x0AE10B
    grayMap := 0xF354C8
    baseBin := 0
    slotSeq := 0
    timestamp := 0
    running := none
    done := false
    err := .ok
    cmdDropped := false
    busyAcc := false
    badAcc := false
    lastOp := 0
    valid := Valid.clear
    phase := .idle
    candIdx := 0
    curCand := 0
    candCount := 0
    cl := List.replicate p.candCap Candidate.zero
    disp := List.replicate p.candCap .none
    llr := List.replicate 174 0
    hard := 0
    a91 := 0
    msg := Msg.zero
    ldpcErrors := 0
    ldpcIter := 0
    crcRx := 0
    crcCalc := 0
    crcOk := false
    ufail := .none
    i3 := 0
    n3 := 0
    res := []
    ht := []
    htKeyIn := 0
    htKeyOut := 0
    htLenIn := 0
    htTextIn := List.replicate 16 0
    htTextOut := []
    pm := []
    resetEpoch := 0
    inReset := false
    inputs := []
    readData := 0 }

/-- The machine right after reset, with the parameters of `Config.defaultParams` (log entry 1). -/
def State.reset : State := State.resetWith Config.defaultParams

end Sys2Proof.Machine
end

