-- ==== Sys2Proof/Machine/Tables.lean ====
section
/-! DEFINITION. The character tables and protocol constants of 30_encoding.md (R118, R119), the
generator of the checksum (R203), the hash constants (R272) and the literal texts of 44_unpack.md. -/

namespace Sys2Proof.Machine

open Sys2Proof

/-- The bytes of a text written as characters (R12). -/
def ascii (cs : List Char) : Text := cs.map fun c => BitVec.ofNat 8 c.toNat

/-- `SP`, the byte 0x20 (R12). -/
def spaceByte : Byte := 0x20

/-- `T10`: `0`..`9` (R118). -/
def table10 : Text := (List.range 10).map fun k => BitVec.ofNat 8 (0x30 + k)

/-- The letters `A`..`Z`. -/
def letters : Text := (List.range 26).map fun k => BitVec.ofNat 8 (0x41 + k)

/-- `T27`: SP, `A`..`Z` (R118). -/
def table27 : Text := spaceByte :: letters

/-- `T36`: `0`..`9`, `A`..`Z` (R118). -/
def table36 : Text := table10 ++ letters

/-- `T37`: SP, `0`..`9`, `A`..`Z` (R118). -/
def table37 : Text := spaceByte :: table36

/-- `T38`: SP, `0`..`9`, `A`..`Z`, `/` (R118). -/
def table38 : Text := table37 ++ ascii ['/']

/-- `T42`: SP, `0`..`9`, `A`..`Z`, `+`, `-`, `.`, `/`, `?` (R118). -/
def table42 : Text := table37 ++ ascii ['+', '-', '.', '/', '?']

/-- `T[i]`, the `i`-th byte of a table (R118); the rules never index past the end. -/
def tableAt (table : Text) (i : Nat) : Byte := table.getD i spaceByte

/-- `idx_T(c)`, the position of byte `c` in a table (R118). -/
def tableIndex (table : Text) (c : Byte) : Nat := table.idxOf c

/-- `NTOKENS` (R119). -/
def nTokens : Nat := 2063592

/-- `MAX22 = 2^22` (R119). -/
def max22 : Nat := 4194304

/-- The generator of R203 without its leading term. -/
def crcPoly : BitVec 14 := 0x2757

/-- The multiplier of R272. -/
def hashMultiplier : Nat := 47055833459

/-- The sentinel of `HT_KEY_OUT` (R274). -/
def htSentinel : Word := 0xFFFFFFFF

/-- The saturation bound of R177. -/
def sat : Int := 2047

/-- The marker of an unresolved hash (R225). -/
def hashMarker : Text := ascii ['<', '.', '.', '.', '>']

end Sys2Proof.Machine
end

