-- ==== Sys2Proof/Machine/Ops.lean ====
section
/-! DEFINITION. The named operations over memory and registers: reading and writing the cells of the
power matrix, bit fields and byte packing, text operations, acceptance, completion, and raising an
error, which is this block's exception (R320, R324).  There is no return from one (R325). -/

namespace Sys2Proof.Machine

open Sys2Proof

/-! ### Cells of the power matrix -/

/-- The byte written to a cell since the last reset, if any. -/
def Memory.lookup : Memory → Nat → Option Byte
  | [], _ => none
  | (a, b) :: rest, c => if a = c then some b else Memory.lookup rest c

/-- Write one cell, keeping the cell numbers strictly rising. -/
def Memory.write : Memory → Nat → Byte → Memory
  | [], c, v => [(c, v)]
  | (a, b) :: rest, c, v =>
    if c < a then (c, v) :: (a, b) :: rest
    else if c = a then (c, v) :: rest
    else (a, b) :: Memory.write rest c v

/-- The canonical form: cell numbers strictly rising.  An unlisted cell has no written byte, so no
entry can equal what an unlisted cell reads as. -/
def Memory.wf : Memory → Bool
  | [] => true
  | [_] => true
  | (a, _) :: (c, v) :: rest => decide (a < c) && Memory.wf ((c, v) :: rest)

/-- `PMcell[c]` (R46): the written byte, or the free value of R352. -/
def State.pmCell (s : State) (c : Nat) : Byte :=
  (s.pm.lookup c).getD (Config.pmPowerUp s.resetEpoch c)

/-- The cell number of a sample (R75). -/
def cellIndex (p : Config.Params) (row fs bin : Nat) : Nat := (row * 2 + fs) * p.numBins + bin

/-- `PM(row, fs, bin)`, a value `0..255` (R75). -/
def State.pmAt (s : State) (row fs bin : Nat) : Nat :=
  (s.pmCell (cellIndex s.cfg row fs bin)).toNat

/-! ### Integers, bit strings and bytes -/

/-- `clamp(v, lo, hi)` (R11). -/
def clamp (v lo hi : Int) : Int := if v < lo then lo else if hi < v then hi else v

/-- `field(s, a, b)`, the bits `a..b` of a bit string, the lowest index most significant (R10). -/
def bitField {n : Nat} (x : BitVec n) (a b : Nat) : Nat :=
  (x.toNat >>> (n - 1 - b)) % 2 ^ (b - a + 1)

/-- Four byte cells in a host word, the lowest-numbered in bits 7:0 (R77). -/
def packWord (b0 b1 b2 b3 : Byte) : Word := b3 ++ b2 ++ b1 ++ b0

/-- The `j`-th byte of a host word, byte 0 in bits 7:0 (R77). -/
def wordByte (v : Word) (j : Nat) : Byte := v.extractLsb' (8 * j) 8

/-- A host word with its bytes in the opposite order: a bit string puts its first byte in bits 7:0
of the word and its first bit in the most significant bit of that byte (R10, R77). -/
def byteSwap (v : Word) : Word :=
  packWord (wordByte v 3) (wordByte v 2) (wordByte v 1) (wordByte v 0)

/-- Word `w` of a run of byte cells, cells beyond the end reading zero (R12, R27). -/
def cellsWord (cells : List Byte) (w : Nat) : Word :=
  packWord (cells.getD (4 * w) 0) (cells.getD (4 * w + 1) 0)
    (cells.getD (4 * w + 2) 0) (cells.getD (4 * w + 3) 0)

/-- Word `w` of a bit string held in bytes, lowest-numbered bit first (R10, R24, R25). -/
def bitsWord {n : Nat} (x : BitVec n) (w : Nat) : Word :=
  byteSwap (x.extractLsb' (n - 32 - 32 * w) 32)

/-- The bit string after a host write of word `w` (R24, R25). -/
def setBitsWord {n : Nat} (x : BitVec n) (w : Nat) (v : Word) : BitVec n :=
  let lo := n - 32 - 32 * w
  (x &&& ~~~((BitVec.allOnes 32).setWidth n <<< lo)) ||| ((byteSwap v).setWidth n <<< lo)

/-- `HARD` in its 24 bytes: bits 174 and up read zero (R24). -/
def hardBytes (x : BitVec 174) : BitVec 192 := x ++ (0 : BitVec 18)

/-- A bit string of `n` bits from a list, the first bit most significant (R10). -/
def packBits (n : Nat) (bs : List Bool) : BitVec n :=
  BitVec.ofNat n (bs.foldl (fun acc b => 2 * acc + b.toNat) 0)

/-- The `count` digits of `v` in base `base`, most significant first. -/
def digits (base : Nat) : (count : Nat) → (v : Nat) → List Nat
  | 0, _ => []
  | k + 1, v => digits base k (v / base) ++ [v % base]

/-! ### Texts -/

/-- `trim(t)`: without leading and trailing bytes 0x20 (R12). -/
def trim (t : Text) : Text :=
  ((t.dropWhile (· == spaceByte)).reverse.dropWhile (· == spaceByte)).reverse

/-- `upper(t)`: `a`..`z` become `A`..`Z` (R12). -/
def upper (t : Text) : Text :=
  t.map fun b => if 0x61 ≤ b.toNat ∧ b.toNat ≤ 0x7A then b - 0x20 else b

/-- `asm(f1, f2, f3)`: the three texts joined by one space each (R291). -/
def assembled (m : Msg) : Text := m.f1 ++ [spaceByte] ++ m.f2 ++ [spaceByte] ++ m.f3

/-! ### Acceptance, completion, errors -/

/-- `STATUS.BUSY` (R40): a command is accepted and not completed. -/
def State.busy (s : State) : Bool := s.running.isSome

/-- `seq <- (PHASE, CAND_IDX unchanged)` (R306). -/
def State.enter (ph : Phase) (s : State) : State := { s with phase := ph }

/-- `seq <- (PHASE, CAND_IDX)` (R13). -/
def State.enterAt (ph : Phase) (idx : Nat) (s : State) : State :=
  { s with phase := ph, candIdx := BitVec.ofNat 7 idx }

/-- The first `seq <-` line of a command (R306, R308); NOP leaves `SEQ` as it is (R300). -/
def firstSeq : Instr → State → State
  | .nop, s => s
  | .sync, s => s.enterAt .sync 0
  | .extract _, s => s.enter .extract
  | .ldpc, s => s.enter .ldpc
  | .check, s => s.enter .check
  | .unpack, s => s.enter .unpack
  | .store, s => s.enter .store
  | .decode, s => s.enterAt .clear 0
  | .clrres, s => s.enter .clear
  | .htadd, s => s.enter .hash
  | .htlook, s => s.enter .hash
  | .htlook12, s => s.enter .hash

/-- Acceptance of the command word `w` (R101): `BUSY <- 1`, `DONE <- 0`, `ERR <- 0`,
`LAST_OP <- w[7:0]`, and a legal command sets `SEQ` to its first phase (R306). -/
def State.accept (w : Word) (s : State) : State :=
  let s' := { s with running := some w, done := false, err := .ok, lastOp := opField w }
  match decode w with
  | .ok i => firstSeq i s'
  | .error _ => s'

/-- Completion (R102): `BUSY <- 0`, `DONE <- 1`, `ERR <- e`, `PHASE <- 0`. -/
def State.completeWith (e : ErrCode) (s : State) : State :=
  { s with running := none, done := true, err := e, phase := .idle }

/-- `complete with ERR = 0` (R102). -/
def State.complete (s : State) : State := s.completeWith .ok

/-- `raise e` (R324), the one exception entry of this block: the rest of the command is abandoned and
it completes with the code.  Nothing is saved, no mode changes, control goes nowhere. -/
def State.raiseErr (e : ErrCode) (s : State) : State := s.completeWith e

/-- How the body of a command ends: it ran to its end, or it raised an error in a state. -/
inductive BodyResult where
  | done (s : State)
  | raised (e : ErrCode) (s : State)
  deriving DecidableEq, Repr

/-- Go on after a body that ran to its end (R307). -/
def BodyResult.andThen (r : BodyResult) (k : State → BodyResult) : BodyResult :=
  match r with
  | .done s => k s
  | .raised e s => .raised e s

/-- The command's completion after its body (R102, R324): a command always completes. -/
def BodyResult.finish (r : BodyResult) : Host.Outcome State Fault Refusal :=
  .next (match r with
    | .done s => s.complete
    | .raised e s => s.raiseErr e)

end Sys2Proof.Machine
end

