-- ==== Sys2Proof/Machine/Flags.lean ====
section
/-! DEFINITION. The codes of the block's tags and every flag computation: `STATUS`, `VALID`, the
interrupt line, and the rules by which each is set and cleared. -/

namespace Sys2Proof.Machine

open Sys2Proof

/-- The code of `STATUS.ERR` (R321). -/
def ErrCode.code : ErrCode → BitVec 4
  | .ok => 0
  | .illegal => 1
  | .operand => 2
  | .seq => 3
  | .geom => 4
  | .htInvalid => 5
  | .htFull => 6

/-- The code of `SEQ.PHASE` (R26). -/
def Phase.code : Phase → BitVec 4
  | .idle => 0
  | .sync => 1
  | .extract => 2
  | .ldpc => 3
  | .check => 4
  | .unpack => 5
  | .store => 6
  | .hash => 7
  | .clear => 8

/-- The code of `MSG.KIND` (R128). -/
def Kind.code : Kind → BitVec 4
  | .unknown => 0
  | .cq => 1
  | .loc => 2
  | .rsl => 3
  | .rrsl => 4
  | .rrr => 5
  | .rr73 => 6
  | .k73 => 7
  | .blank => 8
  | .free => 9
  | .telemetry => 10

/-- The code of `MSG_STAT.UFAIL` (R130). -/
def UFail.code : UFail → BitVec 3
  | .none => 0
  | .tag => 1
  | .token => 2
  | .report => 3
  | .text => 4
  | .call => 5
  | .empty => 6

/-- The code of `DISP[i]` (R131). -/
def Disposition.code : Disposition → BitVec 4
  | .none => 0
  | .stored => 1
  | .ldpc => 2
  | .crc => 3
  | .unpack => 4
  | .dup => 5
  | .full => 6

/-- One flag as a bit. -/
def flagBit (b : Bool) : BitVec 1 := BitVec.ofBool b

/-- `VALID` as bits 3:0 of its register (R28). -/
def Valid.toBits (v : Valid) : BitVec 4 :=
  flagBit v.msgOk ++ flagBit v.payOk ++ flagBit v.cwOk ++ flagBit v.llrRdy

/-- `VALID` from the bits 3:0 of a host write (R28). -/
def Valid.ofBits (b : BitVec 4) : Valid :=
  { llrRdy := b.getLsbD 0, cwOk := b.getLsbD 1, payOk := b.getLsbD 2, msgOk := b.getLsbD 3 }

/-- `VALID` when EXTRACT has filled `LLR` (R160): all flags cleared, `LLR_RDY` set. -/
def Valid.afterExtract : Valid := { Valid.clear with llrRdy := true }

/-- `VALID` after an LDPC run (R175): `PAY_OK` and `MSG_OK` cleared, `CW_OK` set exactly when no
error is left. -/
def Valid.afterLdpc (v : Valid) (clean : Bool) : Valid :=
  { v with cwOk := clean, payOk := false, msgOk := false }

/-- `VALID` after CHECK (R200): `MSG_OK` cleared, `PAY_OK` set exactly when the checksums match. -/
def Valid.afterCheck (v : Valid) (matched : Bool) : Valid :=
  { v with payOk := matched, msgOk := false }

/-- `VALID` after UNPACK (R215). -/
def Valid.afterUnpack (v : Valid) (unpacked : Bool) : Valid := { v with msgOk := unpacked }

/-- The `STATUS` word (R40). -/
def State.statusWord (s : State) : Word :=
  (0 : BitVec 8) ++ s.lastOp ++ (0 : BitVec 5) ++ flagBit s.badAcc ++ flagBit s.busyAcc
    ++ flagBit s.cmdDropped ++ s.err.code ++ (0 : BitVec 2) ++ flagBit s.done ++ flagBit s.busy

/-- A host write to `STATUS`: clears those of the bits 1, 8, 9, 10 whose written bit is 1 (R40). -/
def State.writeStatus (v : Word) (s : State) : State :=
  { s with
    done := s.done && !v.getLsbD 1
    cmdDropped := s.cmdDropped && !v.getLsbD 8
    busyAcc := s.busyAcc && !v.getLsbD 9
    badAcc := s.badAcc && !v.getLsbD 10 }

/-- The interrupt output, a level: `IRQ = STATUS.DONE and CTRL.IE` (R41, R326).  While the reset input
is asserted the spec gives no level for it; the model keeps it as the formula gives it, from the `DONE`
and `IE` of before, until the release.  DESIGN CHOICE (log entry 7, unsafe for a claim about the line
while reset is asserted). -/
def State.irq (s : State) : Bool := s.done && s.ie

/-- `RES_COUNT` (R44). -/
def State.resCount (s : State) : Nat := s.res.length

/-- `HT_COUNT` (R43). -/
def State.htCount (s : State) : Nat := s.ht.length

/-- Record the refusal of a host access (R73, R74, R78): `busyRef` when the engine is busy and the
access is not to `STATUS`, `bad` when it is misaligned, unmapped or a write to a read-only location,
`dropped` when it is a `CMD` write while busy. -/
def State.refuseAccess (busyRef bad dropped : Bool) (s : State) : State :=
  { s with
    busyAcc := s.busyAcc || busyRef
    badAcc := s.badAcc || bad
    cmdDropped := s.cmdDropped || dropped }

end Sys2Proof.Machine
end

