-- ==== Sys2Proof/Machine/Operands.lean ====
section
/-! DEFINITION. Every operand form of the commands: the candidate an index names, the entries of the
sync pattern and of the Gray map, the symbol positions, the fields of a payload, the text and key
operands of the hash commands. -/

namespace Sys2Proof.Machine

open Sys2Proof

/-- `SYNC_MAP[k]`, bits `3k+2 : 3k` (R33). -/
def syncTone (m : BitVec 21) (k : Nat) : Nat := (m.toNat >>> (3 * k)) % 8

/-- `GRAY_MAP[j]`, bits `3j+2 : 3j` (R34). -/
def grayTone (m : BitVec 24) (j : Nat) : Nat := (m.toNat >>> (3 * j)) % 8

/-- `n(d)`, the symbol that carries data symbol `d` (R110). -/
def dataSymbol (d : Nat) : Nat := if d < 29 then d + 7 else d + 14

/-- The row of symbol `n` of a transmission at time offset `t` (R141). -/
def symbolRow (p : Config.Params) (t n : Nat) : Nat := t + n * p.timeOsr

/-- `CL[i]` (R22). -/
def State.candidate (s : State) (i : Nat) : Candidate := s.cl.getD i Candidate.zero

/-- `DISP[i] <- d` (R45). -/
def State.setDisp (i : Nat) (d : Disposition) (s : State) : State :=
  { s with disp := s.disp.set i d }

/-- `sext_16(LLR[i])` (R23). -/
def State.llrAt (s : State) (i : Nat) : Int := (s.llr.getD i 0).toInt

/-- The 77-bit message `m77` of a payload: its bits 0 to 76 (R111). -/
def message77 (a : BitVec 96) : BitVec 77 := a.extractLsb' 19 77

/-- `crc_rx`, the embedded checksum: bits 77 to 90 of a payload (R111, R202). -/
def embeddedCrc (a : BitVec 96) : BitVec 14 := BitVec.ofNat 14 (bitField a 77 90)

/-- The working copy of the checksum: the 77 message bits and 5 zero bits (R202). -/
def crcSpan (a : BitVec 96) : List Bool :=
  (List.range 77).map (fun i => a.getMsbD i) ++ List.replicate 5 false

/-- `i3`, bits 74 to 76 (R112). -/
def tagI3 (m : BitVec 77) : Nat := bitField m 74 76

/-- `n3`, bits 71 to 73 (R112). -/
def tagN3 (m : BitVec 77) : Nat := bitField m 71 73

/-- The text operand of HTADD: `HT_TEXT_IN[0 .. HT_LEN_IN-1]`, trimmed and uppercased (R270, R271). -/
def State.htTextOperand (s : State) : Text := upper (trim (s.htTextIn.take s.htLenIn.toNat))

/-- `ht_find22(key)`: the slot in use with that key (R277). -/
def htFind22 (ht : List Slot) (key : BitVec 22) : Option Slot := ht.find? fun e => e.key == key

/-- `ht_find12(h12)`: the earliest-filled slot whose top 12 key bits are `h12` (R279). -/
def htFind12 (ht : List Slot) (h12 : BitVec 12) : Option Slot :=
  ht.find? fun e => e.key.extractLsb' 10 12 == h12

end Sys2Proof.Machine
end

