-- ==== Sys2Proof/Machine/HashTable.lean ====
section
/-! DEFINITION. HTADD, HTLOOK and HTLOOK12, the callsign hash table (45_hashtable.md). -/

namespace Sys2Proof.Machine

open Sys2Proof

/-- `n` of R272: base-38 accumulation over 11 slots, padded on the right with spaces. -/
def hashNumber (t : Text) : Nat :=
  (List.range 11).foldl (fun n p => n * 38 + tableIndex table38 (t.getD p spaceByte)) 0

/-- `hash22(t)` (R272). -/
def hash22 (t : Text) : BitVec 22 :=
  BitVec.ofNat 22 (((hashNumber t * hashMultiplier) % 2 ^ 64) >>> 42)

/-- The length and charset checks on a normalised text (R270, R271). -/
def validCallsign (t : Text) : Bool :=
  decide (1 ≤ t.length) && decide (t.length ≤ 11) && t.all (fun b => table38.contains b)

/-- Replace the text of the slot with a key (R273). -/
def replaceText (ht : List Slot) (key : BitVec 22) (t : Text) : List Slot :=
  ht.map fun e => if e.key = key then { e with text := t } else e

/-- The body of HTADD (R270): the sentinel is written first. -/
def htaddBody (s : State) : BodyResult :=
  let s' := { s with htKeyOut := htSentinel }
  let t := s.htTextOperand
  if validCallsign t = false then .raised .htInvalid s'
  else
    let key := hash22 t
    let keyOut := key.setWidth 32
    if (htFind22 s.ht key).isSome then
      .done { s' with ht := replaceText s.ht key t, htKeyOut := keyOut }
    else if s.ht.length = s.cfg.htCap then .raised .htFull s'
    else .done { s' with ht := s.ht ++ [{ key := key, text := t }], htKeyOut := keyOut }

/-- `HTADD` (R270). -/
def execHtadd (s : State) : Host.Outcome State Fault Refusal :=
  (htaddBody (s.enter .hash)).finish

/-- The result of a lookup in `HT_TEXT_OUT` and `HT_LEN_OUT` (R276): empty when not found. -/
def lookupResult (found : Option Slot) (s : State) : State :=
  match found with
  | some e => { s with htTextOut := e.text }
  | none => { s with htTextOut := [] }

/-- `HTLOOK` (R276): the key operand is `HT_KEY_IN[21:0]`. -/
def execHtlook (s : State) : Host.Outcome State Fault Refusal :=
  BodyResult.finish (.done (lookupResult (htFind22 s.ht s.htKeyIn) (s.enter .hash)))

/-- `HTLOOK12` (R278): the operand is `HT_KEY_IN[11:0]`. -/
def execHtlook12 (s : State) : Host.Outcome State Fault Refusal :=
  BodyResult.finish
    (.done (lookupResult (htFind12 s.ht (s.htKeyIn.extractLsb' 0 12)) (s.enter .hash)))

end Sys2Proof.Machine
end

