-- ==== Sys2Proof/Machine/Integrity.lean ====
section
/-! DEFINITION. CHECK, the payload packer and integrity checker (43_integrity.md). -/

namespace Sys2Proof.Machine

open Sys2Proof

/-- The payload of a codeword: its first 91 bits and five zero bits (R201). -/
def packPayload (hard : BitVec 174) : BitVec 96 := hard.extractLsb' 83 91 ++ (0 : BitVec 5)

/-- One step of the checksum register (R203). -/
def crcStep (r : BitVec 14) (b : Bool) : BitVec 14 :=
  if xor (r.getLsbD 13) b then (r <<< 1) ^^^ crcPoly else r <<< 1

/-- `crc14(w)` (R203). -/
def crc14 (w : List Bool) : BitVec 14 := w.foldl crcStep 0

/-- The checksum recomputed over a payload's working copy (R202). -/
def computedCrc (a : BitVec 96) : BitVec 14 := crc14 (crcSpan a)

/-- The body of CHECK (R200). -/
def checkBody (s : State) : BodyResult :=
  if s.valid.cwOk = false then .raised .seq s
  else
    let a := packPayload s.hard
    let matched := decide (embeddedCrc a = computedCrc a)
    .done { s with
      a91 := a
      crcRx := embeddedCrc a
      crcCalc := computedCrc a
      crcOk := matched
      valid := s.valid.afterCheck matched }

/-- `CHECK` (R200). -/
def execCheck (s : State) : Host.Outcome State Fault Refusal :=
  (checkBody (s.enter .check)).finish

end Sys2Proof.Machine
end

