-- ==== Sys2Proof/Machine/Ldpc.lean ====
section
/-! DEFINITION. LDPC, the integer min-sum decoder (42_ldpc.md).  The matrix is a list of rows
`Nc(m)`; the messages of a row stand in the order of its columns. -/

namespace Sys2Proof.Machine

open Sys2Proof

/-- The message a row sends to column `i`, 0 when the row has no edge there. -/
def edgeMessage : (cols : List Nat) → (msgs : List Int) → (i : Nat) → Int
  | c :: cols, r :: msgs, i => if c = i then r else edgeMessage cols msgs i
  | _, _, _ => 0

/-- The sum of the messages `RM[m][i]` over `m` in `Nv(i)` (R178). -/
def columnSum (h : List (List Nat)) (rm : List (List Int)) (i : Nat) : Int :=
  ((h.zip rm).map fun row => edgeMessage row.1 row.2 i).sum

/-- The totals `Z[i]` (R178). -/
def totals (h : List (List Nat)) (rm : List (List Int)) (l : List Int) : List Int :=
  l.zipIdx.map fun p => p.1 + columnSum h rm p.2

/-- The hard decisions: 1 exactly when `Z[i] > 0` (R178). -/
def hardDecisions (z : List Int) : List Bool := z.map fun v => decide (0 < v)

/-- Whether a check fails on a hard decision: the XOR of its bits (R175). -/
def checkFails (bits : List Bool) (row : List Nat) : Bool :=
  (row.map fun i => bits.getD i false).foldl xor false

/-- The number of failed checks (R175). -/
def residualErrors (h : List (List Nat)) (bits : List Bool) : Nat := h.countP (checkFails bits)

/-- The variable-to-check messages of one row (R180). -/
def rowQ (z : List Int) (row : List Nat) (msgs : List Int) : List Int :=
  List.zipWith (fun i r => clamp (z.getD i 0 - r) (-sat) sat) row msgs

/-- The smallest magnitude of a list, 0 of the empty one (R181). -/
def minMagnitude : List Int → Int
  | [] => 0
  | q :: qs => qs.foldl (fun m v => min m |v|) |q|

/-- `cn(m, i)` from the messages of the other edges of the check (R181). -/
def checkMessage (others : List Int) : Int :=
  if (others.map fun q => decide (0 < q)).foldl xor false then minMagnitude others
  else -minMagnitude others

/-- The check-to-variable messages of one row from its `QM` (R181). -/
def rowR (qs : List Int) : List Int :=
  (List.range qs.length).map fun k => checkMessage (qs.eraseIdx k)

/-- One iteration: all `QM`, then all `RM` (R180, R181, flooding schedule). -/
def nextMessages (h : List (List Nat)) (z : List Int) (rm : List (List Int)) : List (List Int) :=
  List.zipWith (fun row msgs => rowR (rowQ z row msgs)) h rm

/-- What a run of the decoder ends with (R183). -/
structure LdpcOutcome where
  bits : List Bool
  errors : Nat
  iterations : Nat
  deriving DecidableEq, Repr

/-- The loop of R175 from the messages `rm` after `it` iterations, with `budget` iterations left. -/
def ldpcLoop (h : List (List Nat)) (l : List Int) :
    (budget : Nat) → (it : Nat) → (rm : List (List Int)) → LdpcOutcome
  | 0, it, rm =>
    let bits := hardDecisions (totals h rm l)
    { bits := bits, errors := residualErrors h bits, iterations := it }
  | budget + 1, it, rm =>
    let z := totals h rm l
    let bits := hardDecisions z
    let errors := residualErrors h bits
    if errors = 0 then { bits := bits, errors := 0, iterations := it }
    else ldpcLoop h l budget (it + 1) (nextMessages h z rm)

/-- A run of the decoder on channel values `l` (R175, R179): every message starts at 0. -/
def ldpcRun (h : List (List Nat)) (maxIter : Nat) (l : List Int) : LdpcOutcome :=
  ldpcLoop h l maxIter 0 (h.map fun row => row.map fun _ => 0)

/-- The channel values: `LLR` clamped on load (R177). -/
def State.channelValues (s : State) : List Int :=
  (List.range 174).map fun i => clamp (s.llrAt i) (-sat) sat

/-- The run the state's `LLR`, `MAX_ITER` and `H` give. -/
def State.ldpcOutcome (s : State) : LdpcOutcome :=
  ldpcRun s.cfg.h s.maxIter.toNat s.channelValues

/-- The body of LDPC (R175). -/
def ldpcBody (s : State) : BodyResult :=
  if s.valid.llrRdy = false then .raised .seq s
  else
    let r := s.ldpcOutcome
    .done { s with
      hard := packBits 174 r.bits
      ldpcErrors := BitVec.ofNat 8 r.errors
      ldpcIter := BitVec.ofNat 8 r.iterations
      valid := s.valid.afterLdpc (decide (r.errors = 0)) }

/-- `LDPC` (R175). -/
def execLdpc (s : State) : Host.Outcome State Fault Refusal :=
  (ldpcBody (s.enter .ldpc)).finish

end Sys2Proof.Machine
end

