-- ==== Sys2Proof/Machine/Likelihood.lean ====
section
/-! DEFINITION. EXTRACT, the soft-likelihood extractor (41_likelihood.md). -/

namespace Sys2Proof.Machine

open Sys2Proof

/-- `in_range(c)` (R162): the whole transmission lies inside the matrix. -/
def inRange (p : Config.Params) (c : Candidate) : Bool :=
  decide (0 ≤ c.timeOffset.toInt)
    && decide (c.timeOffset.toInt ≤ (p.numRows : Int) - 1 - 78 * (p.timeOsr : Int))
    && decide ((c.freqOffset.toNat : Int) ≤ (p.numBins : Int) - 8)

/-- `s[j]` of R160 for data symbol `d`: the power at the tone of group value `j`. -/
def groupPower (s : State) (c : Candidate) (d j : Nat) : Int :=
  (s.pmAt (symbolRow s.cfg c.timeOffset.toNat (dataSymbol d)) c.freqSub.toNat
    (c.freqOffset.toNat + grayTone s.grayMap j) : Int)

/-- The largest of four values. -/
def max4 (a b c d : Int) : Int := max (max a b) (max c d)

/-- `LLR[3d+q]` of R160 from the eight powers `s[0..7]`. -/
def llrBit (q : Nat) (p : Nat → Int) : Int :=
  match q with
  | 0 => max4 (p 4) (p 5) (p 6) (p 7) - max4 (p 0) (p 1) (p 2) (p 3)
  | 1 => max4 (p 2) (p 3) (p 6) (p 7) - max4 (p 0) (p 1) (p 4) (p 5)
  | _ => max4 (p 1) (p 3) (p 5) (p 7) - max4 (p 0) (p 2) (p 4) (p 6)

/-- The 174 likelihood values of a candidate (R160): entry `3d + q` is bit `q` of data symbol `d`. -/
def llrValues (s : State) (c : Candidate) : List (BitVec 16) :=
  (List.range 174).map fun i => BitVec.ofInt 16 (llrBit (i % 3) (groupPower s c (i / 3)))

/-- The body of `EXTRACT idx` (R160, R161, R162). -/
def extractBody (idx : Nat) (s : State) : BodyResult :=
  if s.candCount.toNat ≤ idx then .raised .operand s
  else if inRange s.cfg (s.candidate idx) = false then .raised .geom s
  else
    .done { s with
      valid := Valid.afterExtract
      curCand := BitVec.ofNat 7 idx
      llr := llrValues s (s.candidate idx) }

/-- `EXTRACT idx` (R160). -/
def execExtract (idx : Nat) (s : State) : Host.Outcome State Fault Refusal :=
  (extractBody idx (s.enter .extract)).finish

end Sys2Proof.Machine
end

