-- ==== Sys2Proof/Machine/ResultStore.lean ====
section
/-! DEFINITION. STORE, CLRRES and NOP: the result store (46_result_store_and_slot.md). -/

namespace Sys2Proof.Machine

open Sys2Proof

/-- `LEVEL` (R295). -/
def levelOf (score : BitVec 16) : BitVec 16 :=
  BitVec.ofInt 16 ((min score.toInt Config.levelClamp - Config.levelClamp).tdiv Config.levelDiv)

/-- `x` of R296: the frequency in half-bins. -/
def halfBins (baseBin freqOffset : BitVec 16) (freqSub : BitVec 1) : Nat :=
  2 * (baseBin.toNat + freqOffset.toNat) + freqSub.toNat

/-- `FREQ_HZ` (R296). -/
def freqHzOf (baseBin freqOffset : BitVec 16) (freqSub : BitVec 1) : BitVec 16 :=
  BitVec.ofNat 16 (halfBins baseBin freqOffset freqSub * 25 / 8)

/-- `record(i)` (R294). -/
def recordOf (s : State) (i : BitVec 7) : Record :=
  let c := s.candidate i.toNat
  { msg := s.msg
    score := c.score
    freqHz := freqHzOf s.baseBin c.freqOffset c.freqSub
    timeOffset := c.timeOffset
    level := levelOf c.score
    freqSub := c.freqSub
    freqOffset := c.freqOffset
    slotSeq := s.slotSeq
    timestamp := s.timestamp
    a91 := s.a91
    cand := i }

/-- Whether a record in use has the assembled text of `MSG` (R292). -/
def isDuplicate (s : State) : Bool := s.res.any fun r => assembled r.msg == assembled s.msg

/-- The body of STORE (R290): the duplicate test, then the cap (R292, R293). -/
def storeBody (s : State) : BodyResult :=
  if s.valid.msgOk = false then .raised .seq s
  else if isDuplicate s then .done (s.setDisp s.curCand.toNat .dup)
  else if s.res.length = Config.resCap then .done (s.setDisp s.curCand.toNat .full)
  else
    .done ({ s with res := s.res ++ [recordOf s s.curCand] }.setDisp s.curCand.toNat .stored)

/-- `STORE` (R290). -/
def execStore (s : State) : Host.Outcome State Fault Refusal :=
  (storeBody (s.enter .store)).finish

/-- The body of CLRRES (R301): all records zero, `RES_COUNT <- 0`. -/
def clrresBody (s : State) : BodyResult := .done { s with res := [] }

/-- `CLRRES` (R301). -/
def execClrres (s : State) : Host.Outcome State Fault Refusal :=
  (clrresBody (s.enter .clear)).finish

/-- `NOP` (R300): accepted and completed, nothing else changes. -/
def execNop (s : State) : Host.Outcome State Fault Refusal := BodyResult.finish (.done s)

end Sys2Proof.Machine
end

