-- ==== Sys2Proof/Machine/Sync.lean ====
section
/-! DEFINITION. SYNC, the sync detector (40_sync.md). -/

namespace Sys2Proof.Machine

open Sys2Proof

/-- `tot` of R142: the sum of the eight tone cells of one symbol. -/
def toneSum (s : State) (fs row f : Nat) : Int :=
  ((List.range 8).map fun j => (s.pmAt row fs (f + j) : Int)).sum

/-- One of the 21 terms of R142: `8*e - tot` for symbol `k` of sync block `b`. -/
def syncTerm (s : State) (fs t f b k : Nat) : Int :=
  let row := symbolRow s.cfg t (36 * b + k)
  8 * (s.pmAt row fs (f + syncTone s.syncMap k) : Int) - toneSum s fs row f

/-- `acc` of R142. -/
def syncAcc (s : State) (fs t f : Nat) : Int :=
  ((List.range 3).map fun b => ((List.range 7).map fun k => syncTerm s fs t f b k).sum).sum

/-- `score(fs, t, f)` (R142). -/
def syncScore (s : State) (fs t f : Nat) : Int := (syncAcc s fs t f).tdiv 21

/-- The searched positions `(fs, t, f)` in discovery order (R141, R143): `TMAX + 1` time offsets and
`NUM_BINS - 7` frequency offsets. -/
def searchPositions (p : Config.Params) : List (Nat × Nat × Nat) :=
  (List.range 2).flatMap fun fs =>
    (List.range (p.numRows - 78 * p.timeOsr)).flatMap fun t =>
      (List.range (p.numBins - 7)).map fun f => (fs, t, f)

/-- The candidate SYNC makes of a position (R140). -/
def candidateAt (s : State) (pos : Nat × Nat × Nat) : Candidate :=
  { score := BitVec.ofInt 16 (syncScore s pos.1 pos.2.1 pos.2.2)
    timeOffset := BitVec.ofNat 16 pos.2.1
    freqOffset := BitVec.ofNat 16 pos.2.2
    freqSub := BitVec.ofNat 1 pos.1 }

/-- The positions whose score is at least `MIN_SCORE`, as candidates in discovery order (R140). -/
def qualifying (s : State) : List Candidate :=
  ((searchPositions s.cfg).filter fun pos =>
    decide (s.minScore.toInt ≤ syncScore s pos.1 pos.2.1 pos.2.2)).map (candidateAt s)

/-- The new entry goes after every entry of equal or higher score (R144). -/
def placeCandidate (kept : List Candidate) (c : Candidate) : List Candidate :=
  let p := kept.countP fun d => decide (c.score.toInt ≤ d.score.toInt)
  kept.take p ++ c :: kept.drop p

/-- `insert(c)` on the meaningful entries of `CL` (R144). -/
def insertCandidate (maxCand : Nat) (kept : List Candidate) (c : Candidate) : List Candidate :=
  if maxCand = 0 then kept
  else if kept.length = maxCand then
    if c.score.toInt ≤ (kept.getD (kept.length - 1) Candidate.zero).score.toInt then kept
    else placeCandidate kept.dropLast c
  else placeCandidate kept c

/-- The candidates SYNC keeps (R140). -/
def syncKept (s : State) : List Candidate :=
  (qualifying s).foldl (insertCandidate s.maxCand.toNat) []

/-- The body of SYNC (R140). -/
def syncBody (s : State) : BodyResult :=
  let kept := syncKept s
  .done { s with
    valid := Valid.clear
    disp := List.replicate s.cfg.candCap .none
    cl := kept ++ List.replicate (s.cfg.candCap - kept.length) Candidate.zero
    candCount := BitVec.ofNat 7 kept.length }

/-- `SYNC` (R140). -/
def execSync (s : State) : Host.Outcome State Fault Refusal :=
  (syncBody (s.enterAt .sync 0)).finish

end Sys2Proof.Machine
end

