-- ==== Sys2Proof/Machine/Unpack.lean ====
section
/-! DEFINITION. UNPACK, the bit-field unpacker (44_unpack.md). -/

namespace Sys2Proof.Machine

open Sys2Proof

/-- The text of `v` in `count` digits over a character table, the first the most significant. -/
def tableText (table : Text) (count v : Nat) : Text :=
  (digits table.length count v).map (tableAt table)

/-- The message record of a format without callsigns (R218, R219). -/
def plainMsg (t : Text) (k : Kind) : Msg := { Msg.zero with f1 := t, kind := k }

/-- `unpack_free(m)` (R218). -/
def unpackFree (m : BitVec 77) : Except UFail Msg :=
  let f := bitField m 0 70
  if 42 ^ 13 ≤ f then .error .text else .ok (plainMsg (trim (tableText table42 13 f)) .free)

/-- `hexdigit(v)`, upper case (R219). -/
def hexDigit (v : Nat) : Byte := BitVec.ofNat 8 (if v < 10 then 0x30 + v else 0x37 + v)

/-- `unpack_telemetry(m)` (R219). -/
def unpackTelemetry (m : BitVec 77) : Except UFail Msg :=
  .ok (plainMsg ((digits 16 18 (bitField m 0 70)).map hexDigit) .telemetry)

/-- `token3(n)` (R222). -/
def token3 (n : Nat) : Text :=
  match n with
  | 0 => ascii ['D', 'E']
  | 1 => ascii ['Q', 'R', 'Z']
  | _ => ascii ['C', 'Q']

/-- `cq_nnn(v)` (R223). -/
def cqNnn (v : Nat) : Text := ascii ['C', 'Q', ' '] ++ tableText table10 3 v

/-- `cq_aaaa(v)` (R224). -/
def cqAaaa (v : Nat) : Text :=
  let a := trim (tableText table27 4 v)
  if a.length = 0 then ascii ['C', 'Q'] else ascii ['C', 'Q', ' '] ++ a

/-- The text of a looked-up callsign and whether the lookup missed (R225, R230). -/
def hashText (found : Option Slot) : Text × Bool :=
  match found with
  | some e => (ascii ['<'] ++ e.text ++ ascii ['>'], false)
  | none => (hashMarker, true)

/-- `hashed22(key)` (R225). -/
def hashed22 (ht : List Slot) (key : Nat) : Text × Bool :=
  hashText (htFind22 ht (BitVec.ofNat 22 key))

/-- The six characters of a standard callsign before trimming (R226). -/
def stdChars (v : Nat) : Text :=
  [tableAt table37 (v / (27 * 27 * 27 * 10 * 36)),
    tableAt table36 (v / (27 * 27 * 27 * 10) % 36),
    tableAt table10 (v / (27 * 27 * 27) % 10),
    tableAt table27 (v / (27 * 27) % 27),
    tableAt table27 (v / 27 % 27),
    tableAt table27 (v % 27)]

/-- `stdcall(v, ip, i3)` (R226). -/
def stdCall (v : Nat) (ip : Bool) (i3 : Nat) : Text :=
  let t := trim (stdChars v)
  if ip = true ∧ i3 = 1 then t ++ ascii ['/', 'R']
  else if ip = true ∧ i3 = 2 then t ++ ascii ['/', 'P']
  else t

/-- `call28(n28, ip, i3)` (R221). -/
def call28 (ht : List Slot) (n28 : Nat) (ip : Bool) (i3 : Nat) : Except UFail (Text × Bool) :=
  if n28 ≤ 2 then .ok (token3 n28, false)
  else if n28 ≤ 1002 then .ok (cqNnn (n28 - 3), false)
  else if n28 ≤ 532443 then .ok (cqAaaa (n28 - 1003), false)
  else if n28 < nTokens then .error .token
  else if n28 < nTokens + max22 then .ok (hashed22 ht (n28 - nTokens))
  else .ok (stdCall (n28 - nTokens - max22) ip i3, false)

/-- What the third field of a standard message decodes to (R227); `l1` is the number of the
locator's second letter and `loc` the locator, both only when `isGrid`. -/
structure ThirdField where
  text : Text
  kind : Kind
  isGrid : Bool
  l1 : Nat
  loc : Text
  deriving DecidableEq, Repr

/-- The four bytes of the locator with value `g15` (R121, R227). -/
def locatorText (g15 : Nat) : Text :=
  [BitVec.ofNat 8 (0x41 + g15 / 100 / 18), BitVec.ofNat 8 (0x41 + g15 / 100 % 18),
    BitVec.ofNat 8 (0x30 + g15 / 10 % 10), BitVec.ofNat 8 (0x30 + g15 % 10)]

/-- `report2(r)` (R228). -/
def report2 (r : Int) : Text :=
  ascii [if 0 ≤ r then '+' else '-'] ++ tableText table10 2 r.natAbs

/-- A third field that is no locator (R227). -/
def endField (t : Text) (k : Kind) : ThirdField :=
  { text := t, kind := k, isGrid := false, l1 := 0, loc := [] }

/-- `third(g15, ir)` (R227, R232). -/
def third (g15 : Nat) (ir : Bool) : Except UFail ThirdField :=
  if g15 ≤ 32399 then
    let loc := locatorText g15
    .ok { text := if ir then ascii ['R', ' '] ++ loc else loc
          kind := if loc = ascii ['R', 'R', '7', '3'] then .rr73 else .loc
          isGrid := true
          l1 := g15 / 100 % 18
          loc := loc }
  else if g15 = 32400 then .error .report
  else if g15 = 32401 then .ok (endField [] .blank)
  else if g15 = 32402 then .ok (endField (ascii ['R', 'R', 'R']) .rrr)
  else if g15 = 32403 then .ok (endField (ascii ['R', 'R', '7', '3']) .rr73)
  else if g15 = 32404 then .ok (endField (ascii ['7', '3']) .k73)
  else if g15 ≤ 32534 then
    let r := (g15 : Int) - 32435
    .ok (if ir then endField (ascii ['R'] ++ report2 r) .rrsl else endField (report2 r) .rsl)
  else .error .report

/-- Whether a 28-bit field names the destination `CQ`, `CQ nnn` or `CQ aaaa` (R233). -/
def isCqField (n28 : Nat) : Bool := decide (2 ≤ n28) && decide (n28 ≤ 532443)

/-- The message kind in the three steps of R233: the base kind, then the sentinel on a hash miss,
then the CQ override. -/
def classify (base : Kind) (miss cq : Bool) : Kind :=
  if cq then .cq else if miss then .unknown else base

/-- Locator validity (R234): a locator without `R` whose second letter is `B`..`Q`. -/
def locatorValid (t : ThirdField) (ir : Bool) : Bool :=
  t.isGrid && !ir && decide (1 ≤ t.l1) && decide (t.l1 ≤ 16)

/-- The record of a standard message from its decoded fields (R220). -/
def stdMsg (n28a : Nat) (a b : Text × Bool) (t : ThirdField) (ir : Bool) : Msg :=
  let lv := locatorValid t ir
  { f1 := a.1
    f2 := b.1
    f3 := t.text
    kind := classify t.kind (a.2 || b.2) (isCqField n28a)
    hashMiss := a.2 || b.2
    locValid := lv
    loc := if lv then cellsWord t.loc 0 else 0 }

/-- `unpack_std(m, i3)` (R220), with the fields of R114. -/
def unpackStd (ht : List Slot) (m : BitVec 77) (i3 : Nat) : Except UFail Msg :=
  match call28 ht (bitField m 0 27) (m.getMsbD 28) i3 with
  | .error e => .error e
  | .ok a =>
    match call28 ht (bitField m 29 56) (m.getMsbD 57) i3 with
    | .error e => .error e
    | .ok b =>
      match third (bitField m 59 73) (m.getMsbD 58) with
      | .error e => .error e
      | .ok t => .ok (stdMsg (bitField m 0 27) a b t (m.getMsbD 58))

/-- The end-of-transmission code of a nonstandard message (R230). -/
def nonstdEnd (nrpt : Nat) : Text × Kind :=
  match nrpt with
  | 0 => ([], .blank)
  | 1 => (ascii ['R', 'R', 'R'], .rrr)
  | 2 => (ascii ['R', 'R', '7', '3'], .rr73)
  | _ => (ascii ['7', '3'], .k73)

/-- `unpack_nonstd(m)` (R230), with the fields of R115. -/
def unpackNonstd (ht : List Slot) (m : BitVec 77) : Except UFail Msg :=
  let n58 := bitField m 12 69
  let call := trim (tableText table38 11 n58)
  if 38 ^ 11 ≤ n58 then .error .call
  else if call.length = 0 then .error .empty
  else if m.getMsbD 73 then .ok { Msg.zero with f1 := ascii ['C', 'Q'], f2 := call, kind := .cq }
  else
    let hc := hashText (htFind12 ht (BitVec.ofNat 12 (bitField m 0 11)))
    let e := nonstdEnd (bitField m 71 72)
    let iflip := m.getMsbD 70
    .ok { Msg.zero with
      f1 := if iflip then call else hc.1
      f2 := if iflip then hc.1 else call
      f3 := e.1
      kind := classify e.2 hc.2 false
      hashMiss := hc.2 }

/-- `dispatch(m, i3, n3)`, the message-type dispatch (R217). -/
def dispatchMessage (ht : List Slot) (m : BitVec 77) (i3 n3 : Nat) : Except UFail Msg :=
  if i3 = 0 ∧ n3 = 0 then unpackFree m
  else if i3 = 0 ∧ n3 = 5 then unpackTelemetry m
  else if i3 = 1 ∨ i3 = 2 then unpackStd ht m i3
  else if i3 = 4 then unpackNonstd ht m
  else .error .tag

/-- What the 77-bit message unpacks to against a hash table (R215, R217). -/
def unpackMessage (ht : List Slot) (m : BitVec 77) : Except UFail Msg :=
  dispatchMessage ht m (tagI3 m) (tagN3 m)

/-- The body of UNPACK (R215). -/
def unpackBody (s : State) : BodyResult :=
  if s.valid.payOk = false then .raised .seq s
  else
    let m := message77 s.a91
    let s' := { s with i3 := BitVec.ofNat 3 (tagI3 m), n3 := BitVec.ofNat 3 (tagN3 m) }
    match unpackMessage s.ht m with
    | .error reason =>
      .done { s' with msg := Msg.zero, ufail := reason, valid := s.valid.afterUnpack false }
    | .ok r => .done { s' with msg := r, ufail := .none, valid := s.valid.afterUnpack true }

/-- `UNPACK` (R215). -/
def execUnpack (s : State) : Host.Outcome State Fault Refusal :=
  (unpackBody (s.enter .unpack)).finish

end Sys2Proof.Machine
end

