-- ==== Sys2Proof/Machine/Slot.lean ====
section
/-! DEFINITION. DECODE: the whole chain over every candidate of a slot (46_result_store_and_slot.md). -/

namespace Sys2Proof.Machine

open Sys2Proof

/-- `drop(reason)` (R304): `DISP[CUR_CAND] <- reason`, and nothing else. -/
def dropCandidate (reason : Disposition) (s : State) : BodyResult :=
  .done (s.setDisp s.curCand.toNat reason)

/-- The last stage of a candidate in R307: STORE, if the message was unpacked. -/
def decodeStore (idx : Nat) (s : State) : BodyResult :=
  if s.valid.msgOk = false then dropCandidate .unpack s
  else storeBody (s.enterAt .store idx)

/-- From UNPACK on, if the checksum matched (R307). -/
def decodeUnpack (idx : Nat) (s : State) : BodyResult :=
  if s.valid.payOk = false then dropCandidate .crc s
  else (unpackBody (s.enterAt .unpack idx)).andThen (decodeStore idx)

/-- From CHECK on, if the decoder left no error (R307). -/
def decodeCheck (idx : Nat) (s : State) : BodyResult :=
  if s.valid.cwOk = false then dropCandidate .ldpc s
  else (checkBody (s.enterAt .check idx)).andThen (decodeUnpack idx)

/-- One candidate of the loop of R307. -/
def decodeCandidate (idx : Nat) (s : State) : BodyResult :=
  ((extractBody idx (s.enterAt .extract idx)).andThen fun s =>
    ldpcBody (s.enterAt .ldpc idx)).andThen (decodeCheck idx)

/-- The loop of R307 over the candidates `idxs`. -/
def decodeLoop (idxs : List Nat) (s : State) : BodyResult :=
  idxs.foldl (fun r idx => r.andThen (decodeCandidate idx)) (.done s)

/-- The body of DECODE (R307). -/
def decodeBody (s : State) : BodyResult :=
  (((clrresBody (s.enterAt .clear 0)).andThen fun s => syncBody (s.enterAt .sync 0)).andThen
    fun s => decodeLoop (List.range s.candCount.toNat) s).andThen
    fun s => .done (s.enterAt .idle s.candCount.toNat)

/-- `DECODE` (R307). -/
def execDecode (s : State) : Host.Outcome State Fault Refusal := (decodeBody s).finish

end Sys2Proof.Machine
end

