-- ==== Sys2Proof/Machine/Dispatch.lean ====
section
/-! DEFINITION. One arm per command: which meaning each instruction has. -/

namespace Sys2Proof.Machine

open Sys2Proof

def exec (i : Instr) (s : State) : Host.Outcome State Fault Refusal :=
  match i with
  | .nop => Sys2Proof.Machine.execNop s
  | .sync => Sys2Proof.Machine.execSync s
  | .extract idx => Sys2Proof.Machine.execExtract idx s
  | .ldpc => Sys2Proof.Machine.execLdpc s
  | .check => Sys2Proof.Machine.execCheck s
  | .unpack => Sys2Proof.Machine.execUnpack s
  | .store => Sys2Proof.Machine.execStore s
  | .decode => Sys2Proof.Machine.execDecode s
  | .clrres => Sys2Proof.Machine.execClrres s
  | .htadd => Sys2Proof.Machine.execHtadd s
  | .htlook => Sys2Proof.Machine.execHtlook s
  | .htlook12 => Sys2Proof.Machine.execHtlook12 s

end Sys2Proof.Machine
end

