-- ==== Sys2Proof/Machine/HostPort.lean ====
section
/-! DEFINITION. The host port: the address map, the layout of every location in host words, and the
two host accesses with their refusals (20_memory.md, 10_state.md). -/

namespace Sys2Proof.Machine

open Sys2Proof

/-- What is mapped at a word of the host port (R74).  `w` numbers the words of a buffer. -/
inductive Location where
  | id | cmd | status | ctrl | minScore | maxCand | maxIter | syncMap | grayMap | baseBin | slotSeq
  | timestamp | valid | candCount | seq | ldpcStat | crcStat | msgStat | resCount | geom0 | geom1
  | htInfo | htKeyIn | htKeyOut | htLenIn | htLenOut
  | htTextIn (w : Nat) | htTextOut (w : Nat) | a91 (w : Nat) | hard (w : Nat) | msg (w : Nat)
  | cl (i : Nat) (w : Nat) | disp (w : Nat) | llr (w : Nat) | res (r : Nat) (w : Nat) | pm (w : Nat)
  deriving DecidableEq, Repr

/-- The control and status registers at `0x000, 0x004, ..., 0x064` (R30 to R42), by word number. -/
def controlLocation (n : Nat) : Option Location :=
  [Location.id, .cmd, .status, .ctrl, .minScore, .maxCand, .maxIter, .syncMap, .grayMap, .baseBin,
    .slotSeq, .timestamp, .valid, .candCount, .seq, .ldpcStat, .crcStat, .msgStat, .resCount,
    .geom0, .geom1, .htInfo, .htKeyIn, .htKeyOut, .htLenIn, .htLenOut][n]?

/-- The address map (R74); `none` is an unmapped address. -/
def locate (p : Config.Params) (a : Nat) : Option Location :=
  if a < 0x068 then controlLocation (a / 4)
  else if a < 0x070 then none
  else if a < 0x080 then some (.htTextIn ((a - 0x070) / 4))
  else if a < 0x08C then some (.htTextOut ((a - 0x080) / 4))
  else if a < 0x090 then none
  else if a < 0x09C then some (.a91 ((a - 0x090) / 4))
  else if a < 0x0A0 then none
  else if a < 0x0B8 then some (.hard ((a - 0x0A0) / 4))
  else if a < 0x0C0 then none
  else if a < 0x0F4 then some (.msg ((a - 0x0C0) / 4))
  else if a < 0x100 then none
  else if a < 0x300 then some (.cl ((a - 0x100) / 8) ((a - 0x100) / 4 % 2))
  else if a < 0x340 then some (.disp ((a - 0x300) / 4))
  else if a < 0x400 then none
  else if a < 0x55C then some (.llr ((a - 0x400) / 4))
  else if a < 0x800 then none
  else if a < 0xB00 then some (.res ((a - 0x800) / 128) ((a - 0x800) / 4 % 32))
  else if a < 0x1000000 then none
  else if a < 0x1000000 + 4 * p.pmWords then some (.pm ((a - 0x1000000) / 4))
  else none

/-- Whether a location accepts host writes (R74). -/
def Location.writable : Location → Bool
  | .id => false
  | .cmd => true
  | .status => true
  | .ctrl => true
  | .minScore => true
  | .maxCand => true
  | .maxIter => true
  | .syncMap => true
  | .grayMap => true
  | .baseBin => true
  | .slotSeq => true
  | .timestamp => true
  | .valid => true
  | .candCount => true
  | .seq => false
  | .ldpcStat => false
  | .crcStat => false
  | .msgStat => false
  | .resCount => false
  | .geom0 => false
  | .geom1 => false
  | .htInfo => false
  | .htKeyIn => true
  | .htKeyOut => false
  | .htLenIn => true
  | .htLenOut => false
  | .htTextIn _ => true
  | .htTextOut _ => false
  | .a91 _ => true
  | .hard _ => true
  | .msg _ => false
  | .cl _ _ => true
  | .disp _ => false
  | .llr _ => true
  | .res _ _ => false
  | .pm _ => true

/-! ### The layout of the locations in host words -/

/-- The header word of a message (R27). -/
def msgHeader (m : Msg) : Word :=
  (0 : BitVec 2) ++ flagBit m.locValid ++ flagBit m.hashMiss ++ m.kind.code ++ (0 : BitVec 5)
    ++ BitVec.ofNat 3 m.f3.length ++ (0 : BitVec 4) ++ BitVec.ofNat 4 m.f2.length
    ++ (0 : BitVec 3) ++ BitVec.ofNat 5 m.f1.length

/-- Word `w` of a message: header, `F1` in words 1 to 5, `F2` in 6 to 9, `F3` in 10 and 11, `LOC` in
12 (R27, R44). -/
def msgWord (m : Msg) (w : Nat) : Word :=
  if w = 0 then msgHeader m
  else if w < 6 then cellsWord m.f1 (w - 1)
  else if w < 10 then cellsWord m.f2 (w - 6)
  else if w < 12 then cellsWord m.f3 (w - 10)
  else if w = 12 then m.loc
  else 0

/-- Word `w` of a result record (R44). -/
def recordWord (r : Record) (w : Nat) : Word :=
  if w < 13 then msgWord r.msg w
  else if w = 13 then r.score ++ r.freqHz
  else if w = 14 then r.timeOffset ++ r.level
  else if w = 15 then (0 : BitVec 15) ++ r.freqSub ++ r.freqOffset
  else if w = 16 then r.slotSeq
  else if w = 17 then r.timestamp
  else if w < 21 then bitsWord r.a91 (w - 18)
  else if w = 21 then r.cand.setWidth 32
  else 0

/-- Word `w` of a candidate (R22). -/
def candidateWord (c : Candidate) (w : Nat) : Word :=
  if w = 0 then c.timeOffset ++ c.score
  else (0 : BitVec 15) ++ c.freqSub ++ c.freqOffset

/-- `SEQ` (R26). -/
def State.seqWord (s : State) : Word :=
  (0 : BitVec 9) ++ s.curCand ++ (0 : BitVec 1) ++ s.candIdx ++ (0 : BitVec 4) ++ s.phase.code

/-- `CRC_STAT` (R29): `CRC_RX` bits 13:0, `CRC_CALC` bits 29:16, `CRC_OK` bit 31. -/
def State.crcStatWord (s : State) : Word :=
  flagBit s.crcOk ++ (0 : BitVec 1) ++ s.crcCalc ++ (0 : BitVec 2) ++ s.crcRx

/-- `MSG_STAT` (R29): `UFAIL` bits 2:0, `I3` bits 6:4, `N3` bits 10:8. -/
def State.msgStatWord (s : State) : Word :=
  (0 : BitVec 21) ++ s.n3 ++ (0 : BitVec 1) ++ s.i3 ++ (0 : BitVec 1) ++ s.ufail.code

/-- Cell `i` of `DISP` in its byte (R45). -/
def dispByte (s : State) (i : Nat) : Byte :=
  (s.disp.getD i .none).code.setWidth 8

/-- Cell `c` of `PM` on the host port: beyond `PM_BYTES` it reads 0 (R75). -/
def pmByte (s : State) (c : Nat) : Byte := if c < s.cfg.pmBytes then s.pmCell c else 0

/-- The word a host read of a location returns (R71). -/
def readLocation (s : State) : Location → Word
  | .id => 0x46543852
  | .cmd => 0
  | .status => s.statusWord
  | .ctrl => (flagBit s.ie).setWidth 32
  | .minScore => s.minScore.setWidth 32
  | .maxCand => s.maxCand.setWidth 32
  | .maxIter => s.maxIter.setWidth 32
  | .syncMap => s.syncMap.setWidth 32
  | .grayMap => s.grayMap.setWidth 32
  | .baseBin => s.baseBin.setWidth 32
  | .slotSeq => s.slotSeq
  | .timestamp => s.timestamp
  | .valid => s.valid.toBits.setWidth 32
  | .candCount => s.candCount.setWidth 32
  | .seq => s.seqWord
  | .ldpcStat => (0 : BitVec 16) ++ s.ldpcIter ++ s.ldpcErrors
  | .crcStat => s.crcStatWord
  | .msgStat => s.msgStatWord
  | .resCount => (BitVec.ofNat 4 s.resCount).setWidth 32
  | .geom0 => BitVec.ofNat 16 s.cfg.numBlocks ++ BitVec.ofNat 16 s.cfg.numBins
  | .geom1 => (0 : BitVec 8) ++ BitVec.ofNat 8 s.cfg.candCap ++ (2 : BitVec 8)
      ++ BitVec.ofNat 8 s.cfg.timeOsr
  | .htInfo => BitVec.ofNat 16 s.cfg.htCap ++ BitVec.ofNat 16 s.htCount
  | .htKeyIn => s.htKeyIn.setWidth 32
  | .htKeyOut => s.htKeyOut
  | .htLenIn => s.htLenIn.setWidth 32
  | .htLenOut => (BitVec.ofNat 4 s.htTextOut.length).setWidth 32
  | .htTextIn w => cellsWord s.htTextIn w
  | .htTextOut w => cellsWord s.htTextOut w
  | .a91 w => bitsWord s.a91 w
  | .hard w => bitsWord (hardBytes s.hard) w
  | .msg w => msgWord s.msg w
  | .cl i w => candidateWord (s.candidate i) w
  | .disp w => packWord (dispByte s (4 * w)) (dispByte s (4 * w + 1)) (dispByte s (4 * w + 2))
      (dispByte s (4 * w + 3))
  | .llr w => s.llr.getD (2 * w + 1) 0 ++ s.llr.getD (2 * w) 0
  | .res r w => match s.res[r]? with
    | some rec => recordWord rec w
    | none => 0
  | .pm w => packWord (pmByte s (4 * w)) (pmByte s (4 * w + 1)) (pmByte s (4 * w + 2))
      (pmByte s (4 * w + 3))

/-! ### Host writes -/

/-- A WARL value: `min(zext(v), bound)` (R31, R37, R42). -/
def warl (v : Word) (bound : Nat) : Nat := min v.toNat bound

/-- A candidate after a host write of one of its words (R22). -/
def writeCandidate (c : Candidate) (w : Nat) (v : Word) : Candidate :=
  if w = 0 then { c with score := v.extractLsb' 0 16, timeOffset := v.extractLsb' 16 16 }
  else { c with freqOffset := v.extractLsb' 0 16, freqSub := v.extractLsb' 16 1 }

/-- Four byte cells after a host write of their word (R77). -/
def writeCells (cells : List Byte) (w : Nat) (v : Word) : List Byte :=
  (((cells.set (4 * w) (wordByte v 0)).set (4 * w + 1) (wordByte v 1)).set (4 * w + 2)
    (wordByte v 2)).set (4 * w + 3) (wordByte v 3)

/-- One cell of `PM` after a host write; a cell beyond `PM_BYTES` ignores it (R75). -/
def writePmByte (p : Config.Params) (m : Memory) (c : Nat) (v : Byte) : Memory :=
  if c < p.pmBytes then m.write c v else m

/-- `PM` after a host write of its word `w` (R75). -/
def writePmWord (p : Config.Params) (m : Memory) (w : Nat) (v : Word) : Memory :=
  writePmByte p (writePmByte p (writePmByte p (writePmByte p m (4 * w) (wordByte v 0)) (4 * w + 1)
    (wordByte v 1)) (4 * w + 2) (wordByte v 2)) (4 * w + 3) (wordByte v 3)

/-- `A91` with the bits 91 to 95 forced to zero (R25). -/
def forceA91Tail (x : BitVec 96) : BitVec 96 := x &&& ~~~(0x1F : BitVec 96)

/-- The state after an accepted host write of `v` to a location (R72): field truncation, WARL clamp,
write-1-to-clear, forced-zero bits, and for `CMD` the delivery of a command (R101).  A location that
is not writable keeps its value. -/
def writeLocation (v : Word) (s : State) : Location → State
  | .cmd => s.accept v
  | .status => s.writeStatus v
  | .ctrl => { s with ie := v.getLsbD 0 }
  | .minScore => { s with minScore := v.setWidth 16 }
  | .maxCand => { s with maxCand := BitVec.ofNat 7 (warl v s.cfg.candCap) }
  | .maxIter => { s with maxIter := v.setWidth 8 }
  | .syncMap => { s with syncMap := v.setWidth 21 }
  | .grayMap => { s with grayMap := v.setWidth 24 }
  | .baseBin => { s with baseBin := v.setWidth 16 }
  | .slotSeq => { s with slotSeq := v }
  | .timestamp => { s with timestamp := v }
  | .valid => { s with valid := Valid.ofBits (v.setWidth 4) }
  | .candCount => { s with candCount := BitVec.ofNat 7 (warl v s.cfg.candCap) }
  | .htKeyIn => { s with htKeyIn := v.setWidth 22 }
  | .htLenIn => { s with htLenIn := BitVec.ofNat 5 (warl v 16) }
  | .htTextIn w => { s with htTextIn := writeCells s.htTextIn w v }
  | .a91 w => { s with a91 := forceA91Tail (setBitsWord s.a91 w v) }
  | .hard w => { s with hard := (setBitsWord (hardBytes s.hard) w v).extractLsb' 18 174 }
  | .cl i w => { s with cl := s.cl.set i (writeCandidate (s.candidate i) w v) }
  | .llr w => { s with
      llr := (s.llr.set (2 * w) (v.extractLsb' 0 16)).set (2 * w + 1) (v.extractLsb' 16 16) }
  | .pm w => { s with pm := writePmWord s.cfg s.pm w v }
  | .id => s
  | .seq => s
  | .ldpcStat => s
  | .crcStat => s
  | .msgStat => s
  | .resCount => s
  | .geom0 => s
  | .geom1 => s
  | .htInfo => s
  | .htKeyOut => s
  | .htLenOut => s
  | .htTextOut _ => s
  | .msg _ => s
  | .disp _ => s
  | .res _ _ => s

/-! ### The two accesses -/

/-- The address of `CMD` (R39). -/
def cmdAddr : Nat := 0x004

/-- The address of `STATUS` (R40). -/
def statusAddr : Nat := 0x008

/-- The location an aligned access reaches; a misaligned address reaches none (R73). -/
def target (p : Config.Params) (a : Nat) : Option Location :=
  if a % 4 = 0 then locate p a else none

/-- The location a host write may change: mapped and writable (R72, R74). -/
def writeTarget (p : Config.Params) (a : Nat) : Option Location :=
  (target p a).filter Location.writable

/-- Whether the engine's running command refuses an access to `a` (R78). -/
def State.excludes (s : State) (a : Nat) : Bool := s.busy && a != statusAddr

/-- `MemRead(addr, 4)` (R71): a refused read returns 0 and sets the flags of R73, R74 and R78; while
reset is asserted it returns 0 and sets none (R350). -/
def hostRead (a : Nat) (s : State) : State :=
  if s.inReset then { s with readData := 0 }
  else
    match target s.cfg a, s.excludes a with
    | some l, false => { s with readData := readLocation s l }
    | t, busyRef => { s.refuseAccess busyRef t.isNone false with readData := 0 }

/-- `MemWrite(addr, 4, v)` (R72): a refused write changes nothing but the flags of R73, R74 and R78;
while reset is asserted it changes nothing (R350). -/
def hostWrite (a : Nat) (v : Word) (s : State) : State :=
  if s.inReset then s
  else
    match writeTarget s.cfg a, s.excludes a with
    | some l, false => writeLocation v s l
    | t, busyRef => s.refuseAccess busyRef t.isNone (busyRef && a == cmdAddr)

end Sys2Proof.Machine
end

