-- ==== Sys2Proof/Machine/Sequencer.lean ====
section
/-! DEFINITION. What one step does: a turn of the engine, a host access, or a change of the reset
input, in the one total order of R79 and R365. -/

namespace Sys2Proof.Machine

open Sys2Proof

/-- A turn of the engine: it executes the accepted command word to its completion (R79).  An illegal
word completes with `E_ILLEGAL` and changes nothing but `STATUS` (R104).  An idle engine stays idle
(R337), and while reset is asserted it does nothing (R350). -/
def engineTurn (s : State) : Host.Outcome State Fault Refusal :=
  if s.inReset then .next s
  else
    match s.running with
    | none => .next s
    | some w =>
      match decode w with
      | .ok i => exec i s
      | .error _ => .next (s.raiseErr .illegal)

/-- The state when the reset input is released (R350 to R353): every piece of the block holds its
reset value, and `PM` arbitrary bytes.  The configuration, the pins' order and the word the last read
returned are not the block's state. -/
def State.afterReset (s : State) : State :=
  { State.resetWith s.cfg with
    resetEpoch := s.resetEpoch + 1
    inputs := s.inputs
    readData := s.readData }

/-- The reset input is released; releasing it when it is not asserted is no event (R350). -/
def releaseReset (s : State) : State := if s.inReset then s.afterReset else s

/-- What happens at the pins next, or a turn of the engine when nothing waits there.  Asserting reset
changes nothing but the level of the input, so `IRQ` keeps its level until the release: DESIGN CHOICE
(log entry 7). -/
def nextEvent (s : State) : Host.Outcome State Fault Refusal :=
  match s.inputs with
  | [] => engineTurn s
  | e :: rest =>
    let s' := { s with inputs := rest }
    match e with
    | .read a => .next (hostRead a.toNat s')
    | .write a v => .next (hostWrite a.toNat v s')
    | .engine => engineTurn s'
    | .assertReset => .next { s' with inReset := true }
    | .releaseReset => .next (releaseReset s')

/-- The state in which the engine is about to execute the command word `w` as its very next step:
`w` has been accepted as a host write to `CMD` is (R101), and the engine's turn is next. -/
def placeCommand (w : Word) (s : State) : State :=
  { s.accept w with inReset := false, inputs := .engine :: s.inputs }

end Sys2Proof.Machine
end

