-- ==== Sys2Proof/Machine/Step.lean ====
section
/-! DEFINITION. One step of the machine, and where a command stands for the next step. -/

namespace Sys2Proof.Machine

open Sys2Proof

/-- One step (R79): the next event in the total order of host accesses, engine and reset input. -/
def step (s : State) : Host.Outcome State Fault Refusal := nextEvent s

/-- `s` with the command word `w` accepted and the engine's turn next, so that the next step executes
exactly it (R101, R39; log entry 6).  A command is one 32-bit word (R100). -/
def State.withFetchWord (s : State) (nbits w : Nat) : State :=
  placeCommand (BitVec.ofNat 32 (w % 2 ^ nbits)) s

end Sys2Proof.Machine
end

