-- ==== Sys2Proof/Safety.lean ====
section
/-! DEFINITION. The terms the claims are made in: the invariant of every reachable state, what it
means that a payload is accepted (R204), and DECODE as the sequence of stage commands of R310. -/

namespace Sys2Proof.Machine

open Sys2Proof

/-- A text fits a text register of the given capacity (R12). -/
abbrev Text.Fits (t : Text) (cap : Nat) : Prop := t.length ≤ cap

/-- A message whose texts fit their registers (R27, R236) and whose `LOC` is zero unless `LOC_VALID`
(R234). -/
structure Msg.Bounded (m : Msg) : Prop where
  f1 : Text.Fits m.f1 18
  f2 : Text.Fits m.f2 13
  f3 : Text.Fits m.f3 6
  loc : m.locValid = false → m.loc = 0

/-- Bits 91 to 95 of a payload buffer are zero (R25). -/
abbrev TailZero (a : BitVec 96) : Prop := a.extractLsb' 0 5 = 0

/-- The invariant of the block: what 10_state.md says of every state, whatever the host does. -/
structure State.Inv (s : State) : Prop where
  /-- The configuration meets the constraints of R7 and R38. -/
  legal : s.cfg.legal = true
  /-- `CL` has `CAND_CAP` entries (R22). -/
  cl : s.cl.length = s.cfg.candCap
  /-- `DISP` has `CAND_CAP` entries (R45). -/
  disp : s.disp.length = s.cfg.candCap
  /-- `LLR` has 174 entries (R23). -/
  llr : s.llr.length = 174
  /-- `HT_TEXT_IN` has 16 cells (R42). -/
  htTextIn : s.htTextIn.length = 16
  /-- `CAND_COUNT` is `0..CAND_CAP` (R37). -/
  candCount : s.candCount.toNat ≤ s.cfg.candCap
  /-- `MAX_CAND` is `0..CAND_CAP` (R31). -/
  maxCand : s.maxCand.toNat ≤ s.cfg.candCap
  /-- `CUR_CAND` indexes an existing entry of `CL` (R26, R298). -/
  curCand : s.curCand.toNat < s.cfg.candCap
  /-- `CAND_IDX` never exceeds `CAND_CAP` (R26). -/
  candIdx : s.candIdx.toNat ≤ s.cfg.candCap
  /-- `HT_LEN_IN` is `0..16` (R42). -/
  htLenIn : s.htLenIn.toNat ≤ 16
  /-- `A91[91..95]` are zero (R25). -/
  a91 : TailZero s.a91
  /-- The texts of `MSG` fit (R27). -/
  msg : s.msg.Bounded
  /-- `ERRORS` is `0..83` (R29). -/
  ldpcErrors : s.ldpcErrors.toNat ≤ 83
  /-- `RES_COUNT` is `0..6` (R44). -/
  resCount : s.res.length ≤ 6
  /-- The texts of every record fit. -/
  res : ∀ r ∈ s.res, r.msg.Bounded ∧ TailZero r.a91
  /-- `HT_COUNT` is `0..HT_CAP` (R43). -/
  htCount : s.ht.length ≤ s.cfg.htCap
  /-- No two slots in use have the same key (R43). -/
  htKeys : (s.ht.map Slot.key).Nodup
  /-- Every slot in use holds a valid callsign under its own key (R43, R273). -/
  ht : ∀ e ∈ s.ht, validCallsign e.text = true ∧ e.key = hash22 e.text
  /-- `HT_LEN_OUT` is `0..11` (R42). -/
  htTextOut : Text.Fits s.htTextOut 11
  /-- The written cells of `PM` are listed once, in order. -/
  pm : s.pm.wf = true
  /-- Only cells of `PM` are listed (R46). -/
  pmCells : ∀ e ∈ s.pm, e.1 < s.cfg.pmBytes
  /-- While no command is executing `PHASE = 0` (R26). -/
  phase : s.busy = false → s.phase = .idle

/-- A bit vector is a codeword of `H`: every check has an even number of ones (R176). -/
abbrev IsCodeword (h : List (List Nat)) (x : BitVec 174) : Prop :=
  ∀ row ∈ h, (row.map fun i => x.getMsbD i).foldl xor false = false

/-- A payload that the chain may accept (R204, R311): its checksum matches, and it is the first 91
bits of a codeword of `H`. -/
abbrev AcceptedPayload (h : List (List Nat)) (a : BitVec 96) : Prop :=
  embeddedCrc a = computedCrc a ∧ ∃ x : BitVec 174, IsCodeword h x ∧ packPayload x = a

/-- The acceptance invariant (R204), for what the flags stand for and for every record. -/
structure State.Accepted (s : State) : Prop where
  codeword : s.valid.cwOk = true → IsCodeword s.cfg.h s.hard
  payload : s.valid.payOk = true → AcceptedPayload s.cfg.h s.a91
  message : s.valid.msgOk = true →
    s.valid.payOk = true ∧ ∃ ht, unpackMessage ht (message77 s.a91) = .ok s.msg
  records : ∀ r ∈ s.res, AcceptedPayload s.cfg.h r.a91 ∧
    ∃ ht, unpackMessage ht (message77 r.a91) = .ok r.msg

/-- A host write that takes over the obligation a flag stands for (R362): to `VALID`, `HARD` or
`A91`. -/
def Event.tampers : Event → Bool
  | .write a _ =>
    decide (a.toNat = 0x030) || (decide (0x090 ≤ a.toNat) && decide (a.toNat < 0x0B8))
  | .read _ => false
  | .engine => false
  | .assertReset => false
  | .releaseReset => false

/-- The state a command leaves, for commands that always complete. -/
def after (i : Instr) (s : State) : State :=
  match exec i s with
  | .next t => t
  | .fault _ => s
  | .refused _ => s

/-- The stage commands of R310 for one candidate, each issued only if its flag is set. -/
def candidateByCommands (s : State) (idx : Nat) : State :=
  let s := after .ldpc (after (.extract idx) s)
  let s := if s.valid.cwOk then after .check s else s
  let s := if s.valid.payOk then after .unpack s else s
  if s.valid.msgOk then after .store s else s

/-- What the commands of R310 leave when the host has issued them for the first `n` candidates. -/
def commandsUpTo (s : State) (n : Nat) : State :=
  (List.range n).foldl candidateByCommands (after .sync (after .clrres s))

/-- DECODE as the host would issue it command by command (R310). -/
def slotByCommands (s : State) : State :=
  commandsUpTo s (after .sync (after .clrres s)).candCount.toNat

/-- The drop code DECODE gives a candidate for the gate that closes on it (R307): the first flag that
is 0 after its stage commands; `none` if all gates let it through to STORE. -/
def dropCode (v : Valid) : Option Disposition :=
  if v.cwOk = false then some .ldpc
  else if v.payOk = false then some .crc
  else if v.msgOk = false then some .unpack
  else none

/-- The messages of the decoder after `n` iterations from zero messages (R179, R180, R181). -/
def messagesAfter (h : List (List Nat)) (l : List Int) : Nat → List (List Int)
  | 0 => h.map fun row => row.map fun _ => 0
  | n + 1 => nextMessages h (totals h (messagesAfter h l n) l) (messagesAfter h l n)

/-- The hard decision on bit `i` of the pass that follows iteration `n` (R178). -/
def decisionAfter (h : List (List Nat)) (l : List Int) (n i : Nat) : Bool :=
  decide (0 < (totals h (messagesAfter h l n) l).getD i 0)

/-- The unmapped addresses, range by range (R74). -/
abbrev UnmappedAddress (p : Config.Params) (a : Nat) : Prop :=
  (0x068 ≤ a ∧ a < 0x070) ∨ (0x08C ≤ a ∧ a < 0x090) ∨ (0x09C ≤ a ∧ a < 0x0A0) ∨
  (0x0B8 ≤ a ∧ a < 0x0C0) ∨ (0x0F4 ≤ a ∧ a < 0x100) ∨ (0x340 ≤ a ∧ a < 0x400) ∨
  (0x55C ≤ a ∧ a < 0x800) ∨ (0xB00 ≤ a ∧ a < 0x1000000) ∨ 0x1000000 + 4 * p.pmWords ≤ a

/-- The words of the read-only locations: the registers R74 lists, `HT_TEXT_OUT`, `MSG`, `DISP` and
`RES`. -/
abbrev ReadOnlyAddress (a : Nat) : Prop :=
  a ∈ [0x000, 0x038, 0x03C, 0x040, 0x044, 0x048, 0x04C, 0x050, 0x054, 0x05C, 0x064] ∨
  (0x080 ≤ a ∧ a < 0x08C) ∨ (0x0C0 ≤ a ∧ a < 0x0F4) ∨ (0x300 ≤ a ∧ a < 0x340) ∨
  (0x800 ≤ a ∧ a < 0xB00)

/-- Byte `j` of a host word, byte 0 in bits 7:0 (R77), as a number. -/
def byteLane (v : Word) (j : Nat) : Nat := v.toNat / 2 ^ (8 * j) % 256

/-- The header of a message as a number: `F1LEN` bits 4:0, `F2LEN` 11:8, `F3LEN` 18:16, `KIND` 27:24,
`HASH_MISS` 28, `LOC_VALID` 29 (R27). -/
def headerValue (m : Msg) : Nat :=
  m.f1.length + 2 ^ 8 * m.f2.length + 2 ^ 16 * m.f3.length + 2 ^ 24 * m.kind.code.toNat
    + 2 ^ 28 * m.hashMiss.toNat + 2 ^ 29 * m.locValid.toNat

/-- The 13 words that `word` gives lay a message out as R27 and R44 say: header, `F1` in words 1 to 5,
`F2` in 6 to 9, `F3` in 10 and 11, `LOC` in 12; bytes beyond a text are zero. -/
structure Msg.LaidOut (m : Msg) (word : Nat → Word) : Prop where
  header : (word 0).toNat = headerValue m
  f1 : ∀ b < 20, byteLane (word (1 + b / 4)) (b % 4) = (m.f1.getD b 0).toNat
  f2 : ∀ b < 16, byteLane (word (6 + b / 4)) (b % 4) = (m.f2.getD b 0).toNat
  f3 : ∀ b < 8, byteLane (word (10 + b / 4)) (b % 4) = (m.f3.getD b 0).toNat
  loc : word 12 = m.loc

/-- The words that `word` gives hold the bits of a bit string, bit `i` in byte `i / 8` at register bit
`7 - i % 8`, bits beyond its end zero (R10, R24, R25). -/
abbrev BitsLaidOut {n : Nat} (x : BitVec n) (words : Nat) (word : Nat → Word) : Prop :=
  ∀ i < 32 * words, (word (i / 32)).getLsbD (8 * (i / 8 % 4) + (7 - i % 8)) = x.getMsbD i

end Sys2Proof.Machine
end

