-- ==== Sys2Proof/Certificates/Slice0/Obligations.lean ====
section
/-! DEFINITION. The statements for the provers: what the rules of spec/ say of the machine. -/

open Sys2Proof Sys2Proof.Machine

/-! ### Command words -/

/-- Decoding the word of a well-formed command gives the command back (R103, R105, R106). -/
def Obligations.DecodeOfEncodeGivesTheCommand : Prop :=
  ∀ i : Instr, i.wellFormed = true → decode (encode i) = .ok i

/-- A legal word is the word of exactly the command it decodes to: no bit of it is dropped (R100,
R105). -/
def Obligations.LegalWordIsTheWordOfItsCommand : Prop :=
  ∀ (w : Word) (i : Instr), decode w = .ok i → i.wellFormed = true ∧ encode i = w

/-- The illegal words are those of R104, and an illegal word changes nothing but `STATUS`: written to
`CMD` of an idle block it is accepted, and the engine's turn then completes it with `E_ILLEGAL`. -/
def Obligations.IllegalWordsRaiseIllegalAndChangeOnlyStatus : Prop :=
  (∀ w : Word, (∃ e, decode w = .error e) ↔
    w.toNat / 2 ^ 16 ≠ 0 ∨
    w.toNat % 256 ∉ [0x00, 0x01, 0x02, 0x03, 0x04, 0x05, 0x06, 0x07, 0x08, 0x10, 0x11, 0x12] ∨
    (w.toNat % 256 ≠ 0x02 ∧ w.toNat / 256 % 256 ≠ 0)) ∧
  ∀ (s : State) (w : Word) (e : DecodeError) (rest : List Event),
    s.Inv → s.busy = false → s.inReset = false → decode w = .error e →
    s.inputs = .write 0x004 w :: .engine :: rest →
    ∃ t u, step s = .next t ∧ step t = .next u ∧
      t = { s with running := some w, done := false, err := .ok, lastOp := w.extractLsb' 0 8,
                   inputs := .engine :: rest } ∧
      u = { s with done := true, err := .illegal, lastOp := w.extractLsb' 0 8, inputs := rest }

/-- Words written out from the encoding table of R100 and R103 decode to their commands. -/
def Obligations.WordsFromTheOpcodeMapDecode : Prop :=
  decode 0x00000000 = .ok .nop ∧ decode 0x00000001 = .ok .sync ∧
  decode 0x00000302 = .ok (.extract 3) ∧ decode 0x0000FF02 = .ok (.extract 255) ∧
  decode 0x00000005 = .ok .unpack ∧ decode 0x00000007 = .ok .decode ∧
  decode 0x00000010 = .ok .htadd ∧ decode 0x00000012 = .ok .htlook12 ∧
  decode 0x00010001 = .error .reservedBits ∧ decode 0x00000101 = .error .operandNotZero ∧
  decode 0x00000009 = .error .unknownOpcode ∧ decode 0x00000013 = .error .unknownOpcode

/-! ### Acceptance, execution, completion -/

/-- A step at the engine's turn runs the accepted command: `exec` of the instruction its word decodes
to, on the state with that turn taken from the waiting events (R79, R101).  The turn of an idle engine
leaves every piece of state as it was (R337). -/
def Obligations.StepAtTheEnginesTurnRunsTheDecodedCommand : Prop :=
  (∀ (s : State) (w : Word) (i : Instr), s.inReset = false → s.running = some w →
    decode w = .ok i →
    (∀ rest, s.inputs = .engine :: rest → step s = exec i { s with inputs := rest }) ∧
    (s.inputs = [] → step s = exec i s)) ∧
  ∀ s : State, s.running = none →
    (∀ rest, s.inputs = .engine :: rest → step s = .next { s with inputs := rest }) ∧
    (s.inputs = [] → step s = .next s)

/-- A `CMD` write: accepted while idle (R101), dropped and flagged while busy (R78).  Acceptance puts
`SEQ` at the first phase of the command (R306, R308): `CAND_IDX` becomes 0 for SYNC and DECODE and stays
for every other, and an illegal word leaves both.  The MODEL's choices in it: that DECODE's first pair
`(8,0)` is set at acceptance (log entry 10), and that after an illegal word, too, there is a state with
`BUSY` 1, since it completes only at the engine's turn (log entry 5). -/
def Obligations.CommandWriteIsAcceptedExactlyWhenIdle : Prop :=
  ∀ (s : State) (w : Word) (rest : List Event), s.inReset = false →
    s.inputs = .write 0x004 w :: rest →
    (s.busy = false → ∃ t, step s = .next t ∧ t.busy = true ∧
      t = { s with running := some w, done := false, err := .ok, lastOp := w.extractLsb' 0 8,
                   phase := t.phase, candIdx := t.candIdx, inputs := rest } ∧
      (∀ i, decode w = .ok i →
        (t.phase = match i with
          | .nop => s.phase
          | .sync => .sync
          | .extract _ => .extract
          | .ldpc => .ldpc
          | .check => .check
          | .unpack => .unpack
          | .store => .store
          | .decode => .clear
          | .clrres => .clear
          | .htadd => .hash
          | .htlook => .hash
          | .htlook12 => .hash) ∧
        t.candIdx = if i = .sync ∨ i = .decode then 0 else s.candIdx) ∧
      ∀ e, decode w = .error e → t.phase = s.phase ∧ t.candIdx = s.candIdx) ∧
    (s.busy = true →
      step s = .next { s with cmdDropped := true, busyAcc := true, inputs := rest })

/-- The model never stops, and every accepted command, legal or not, completes at the engine's turn:
`BUSY` 0, `DONE` 1, `PHASE` 0, the interrupt line shows `IE`, `LAST_OP` stays (R102, R320, R326, R329). -/
def Obligations.EveryAcceptedCommandCompletes : Prop :=
  (∀ s : State, ∃ t, step s = .next t) ∧
  ∀ (s : State) (w : Word) (rest : List Event), s.inReset = false → s.running = some w →
    s.inputs = .engine :: rest →
    ∃ t, step s = .next t ∧ t.busy = false ∧ t.done = true ∧ t.phase = .idle ∧
      t.irq = s.ie ∧ t.lastOp = s.lastOp ∧ t.inputs = rest

/-- What no command writes (10_state.md section 8): the configuration, the control registers, the
operand registers of the hash port, `PM`, the sticky flags, `LAST_OP`, the reset input and the model's
own fields.  All else is listed, and `PM` reads the same at every cell. -/
def Obligations.NoCommandWritesWhatOnlyTheHostWrites : Prop :=
  ∀ (i : Instr) (s t : State), exec i s = .next t →
    t = { s with
      running := none, done := true, err := t.err, phase := .idle, candIdx := t.candIdx,
      curCand := t.curCand, valid := t.valid, candCount := t.candCount, cl := t.cl,
      disp := t.disp, llr := t.llr, hard := t.hard, a91 := t.a91, msg := t.msg,
      ldpcErrors := t.ldpcErrors, ldpcIter := t.ldpcIter, crcRx := t.crcRx,
      crcCalc := t.crcCalc, crcOk := t.crcOk, ufail := t.ufail, i3 := t.i3, n3 := t.n3,
      res := t.res, ht := t.ht, htKeyOut := t.htKeyOut, htTextOut := t.htTextOut } ∧
    ∀ c, t.pmCell c = s.pmCell c

/-- Host accesses between the steps of a command do not disturb it (R78, R366): what a command does
is the same whatever the sticky flags, the last read word and the waiting events are, and it leaves
those as they are. -/
def Obligations.CommandsIgnoreWhatHostAccessesWhileBusyChange : Prop :=
  ∀ (i : Instr) (s t : State) (dropped busyAcc badAcc done : Bool) (r : Word) (es : List Event),
    exec i s = .next t →
    exec i { s with cmdDropped := dropped, busyAcc := busyAcc, badAcc := badAcc, done := done,
                    readData := r, inputs := es } =
      .next { t with cmdDropped := dropped, busyAcc := busyAcc, badAcc := badAcc,
                     readData := r, inputs := es }

/-! ### Reset and the invariants -/

/-- The state after reset (R351 and the table of 10_state.md section 8), for every configuration;
`ID`, `CMD`, `GEOM0`, `GEOM1` and `HT_INFO` read as they stand there, and `PM` holds the free bytes of
R352, one for each cell (that they are those of epoch 0 is log entry 2's numbering). -/
def Obligations.ResetStateHoldsTheTablesValues : Prop :=
  ∀ p : Config.Params, p.legal = true →
    let s := State.resetWith p
    let rd := fun (a : Nat) => (hostRead a s).readData.toNat
    rd 0x000 = 0x46543852 ∧ rd 0x004 = 0 ∧ rd 0x04C = p.numBlocks * 2 ^ 16 + p.numBins ∧
    rd 0x050 = p.candCap * 2 ^ 16 + 2 * 2 ^ 8 + p.timeOsr ∧ rd 0x054 = p.htCap * 2 ^ 16 ∧
    s.statusWord = 0 ∧ s.seqWord = 0 ∧ s.irq = false ∧ s.valid.toBits = 0 ∧ s.ie = false ∧
    s.minScore.toInt = 40 ∧ s.maxCand.toNat = p.candCap ∧ s.maxIter.toNat = 10 ∧
    s.syncMap = 0x0AE10B ∧ s.grayMap = 0xF354C8 ∧
    (List.range 7).map (syncTone s.syncMap) = [3, 1, 4, 0, 6, 5, 2] ∧
    (List.range 8).map (grayTone s.grayMap) = [0, 1, 3, 2, 5, 6, 4, 7] ∧
    s.baseBin = 0 ∧ s.slotSeq = 0 ∧ s.timestamp = 0 ∧ s.candCount = 0 ∧
    (∀ i, s.candidate i = Candidate.zero) ∧ (∀ i, s.llrAt i = 0) ∧
    (∀ d ∈ s.disp, d = Disposition.none) ∧ s.hard = 0 ∧ s.a91 = 0 ∧ s.msg = Msg.zero ∧
    s.ldpcErrors = 0 ∧ s.ldpcIter = 0 ∧ s.crcStatWord = 0 ∧ s.msgStatWord = 0 ∧
    s.resCount = 0 ∧ s.htCount = 0 ∧ s.htKeyIn = 0 ∧ s.htKeyOut = 0 ∧ s.htLenIn = 0 ∧
    (∀ w, cellsWord s.htTextIn w = 0) ∧ s.htTextOut = [] ∧
    ∀ c, s.pmCell c = Config.pmPowerUp 0 c

/-- Reset meets the invariant and the acceptance invariant, for every legal configuration. -/
def Obligations.ResetMeetsTheInvariants : Prop :=
  ∀ p : Config.Params, p.legal = true →
    (State.resetWith p).Inv ∧ (State.resetWith p).Accepted

/-- Every step keeps the invariant of 10_state.md: sizes, ranges, forced zeros, unique keys, the
canonical form of `PM`, `PHASE = 0` while idle. -/
def Obligations.EveryStepKeepsTheInvariant : Prop :=
  ∀ s t : State, s.Inv → step s = .next t → t.Inv

/-- The acceptance invariant (R204, R311, R362): unless the host writes `VALID`, `HARD` or `A91`,
every step keeps that `CW_OK` stands for a codeword of `H`, `PAY_OK` for a matching checksum over the
first 91 bits of a codeword, `MSG_OK` for the message that payload unpacks to, and that every stored
record holds such a payload and its message. -/
def Obligations.EveryUntamperedStepKeepsAcceptance : Prop :=
  ∀ s t : State, s.Accepted → (∀ e, s.inputs.head? = some e → e.tampers = false) →
    step s = .next t → t.Accepted

/-- Reset (R350, R352, R353): it may be asserted at any time; while it is asserted the engine and the
host port do nothing; releasing it, whatever was running, gives the reset state of the configuration
with new arbitrary bytes in `PM`.  The MODEL's choices in it: that the input is two events, that
asserting it leaves all other state (and so `IRQ`) as it was until the release, and that the release
keeps the waiting events and the last read word (log entry 7); that the free bytes are numbered by
`resetEpoch`, one more at each release (log entry 2). -/
def Obligations.ResetAbandonsEverything : Prop :=
  (∀ (s : State) (rest : List Event), s.inputs = .assertReset :: rest →
    step s = .next { s with inputs := rest, inReset := true }) ∧
  ∀ (s : State) (rest : List Event), s.inReset = true →
    (s.inputs = .releaseReset :: rest →
      ∃ t, step s = .next t ∧
        t = { State.resetWith s.cfg with
                resetEpoch := s.resetEpoch + 1, inputs := rest, readData := s.readData } ∧
        ∀ c, t.pmCell c = Config.pmPowerUp (s.resetEpoch + 1) c) ∧
    (s.inputs = .engine :: rest → step s = .next { s with inputs := rest }) ∧
    (s.inputs = [] → step s = .next s) ∧
    (∀ a, s.inputs = .read a :: rest → step s = .next { s with inputs := rest, readData := 0 }) ∧
    (∀ a v, s.inputs = .write a v :: rest → step s = .next { s with inputs := rest })

/-- Nothing changes the configuration (R21). -/
def Obligations.NoStepChangesTheConfiguration : Prop :=
  ∀ s t : State, step s = .next t → t.cfg = s.cfg

/-- Only HTADD writes the hash table, and only a reset empties it (R43): a step that changes it is
the release of reset, or a completion of HTADD that keeps every key in its place. -/
def Obligations.OnlyHtaddAndResetChangeTheTable : Prop :=
  ∀ s t : State, step s = .next t → t.ht ≠ s.ht →
    (s.inReset = true ∧ t.ht = [] ∧ s.inputs.head? = some .releaseReset) ∨
    (∃ w, s.running = some w ∧ decode w = .ok .htadd ∧ t.err = .ok ∧
      s.ht.map Slot.key <+: t.ht.map Slot.key)

/-! ### SYNC -/

/-- SYNC (R140, R145): completes, leaves the best `MAX_CAND` qualifying positions in descending
score order with ties in discovery order (a stable sort), zero entries after them, clears `VALID` and
`DISP`, and changes nothing else. -/
def Obligations.SyncKeepsTheBestCandidatesStablySorted : Prop :=
  ∀ s : State, ∃ t, exec .sync s = .next t ∧
    t = { s with
      running := none, done := true, err := .ok, phase := .idle, candIdx := 0,
      valid := { llrRdy := false, cwOk := false, payOk := false, msgOk := false },
      disp := List.replicate s.cfg.candCap .none, cl := t.cl, candCount := t.candCount } ∧
    (let best := (List.insertionSort (fun a b => b.score.toInt ≤ a.score.toInt)
        (qualifying s)).take s.maxCand.toNat
     t.candCount.toNat = min (qualifying s).length s.maxCand.toNat ∧
     t.cl = best ++ List.replicate (s.cfg.candCap - best.length) Candidate.zero) ∧
    ∀ c, t.pmCell c = s.pmCell c

/-- The score of R142 lies in `-1785..1785`, so it fits its 16-bit field: every candidate SYNC makes
has the integer score, and the qualifying ones have at least `MIN_SCORE`. -/
def Obligations.SyncScoreIsBoundedAndFitsItsField : Prop :=
  ∀ s : State,
    (∀ fs t f, -1785 ≤ syncScore s fs t f ∧ syncScore s fs t f ≤ 1785 ∧
      (candidateAt s (fs, t, f)).score.toInt = syncScore s fs t f) ∧
    ∀ c ∈ qualifying s, s.minScore.toInt ≤ c.score.toInt

/-- The search range and the discovery order (R141, R143): the positions searched are exactly those
at which all 79 symbols and 8 tones lie inside the matrix, each once, in ascending lexicographic
order, and every sample their scores read is inside `PM`. -/
def Obligations.SyncSearchesEveryPositionInsideTheMatrixInOrder : Prop :=
  ∀ p : Config.Params,
    (∀ fs t f, (fs, t, f) ∈ searchPositions p ↔
      fs < 2 ∧ t + 78 * p.timeOsr + 1 ≤ p.numRows ∧ f + 8 ≤ p.numBins) ∧
    (searchPositions p).Pairwise (fun a b =>
      a.1 < b.1 ∨ (a.1 = b.1 ∧ (a.2.1 < b.2.1 ∨ (a.2.1 = b.2.1 ∧ a.2.2 < b.2.2)))) ∧
    ∀ fs t f, (fs, t, f) ∈ searchPositions p → ∀ n < 79, ∀ j < 8,
      cellIndex p (symbolRow p t n) fs (f + j) < p.pmBytes

/-- The peak property (R147): let the matrix be zero but for `A` at the 21 sync cells of one searched
position.  That position has the score `7*A`, every other searched position a lower one, and SYNC puts
it first in `CL` if `MIN_SCORE` admits it, as the reset value 40 does from `A = 6` on. -/
def Obligations.InjectedSyncPatternHasThePeakScore : Prop :=
  ∀ (s : State) (fs0 t0 f0 A : Nat), s.cfg.legal = true → (fs0, t0, f0) ∈ searchPositions s.cfg →
    1 ≤ A → A ≤ 255 →
    (∀ b < 3, ∀ k < 7,
      s.pmAt (t0 + (36 * b + k) * s.cfg.timeOsr) fs0 (f0 + syncTone s.syncMap k) = A) →
    (∀ row fs bin, row < s.cfg.numRows → fs < 2 → bin < s.cfg.numBins →
      (∀ b < 3, ∀ k < 7, ¬ (fs = fs0 ∧ row = t0 + (36 * b + k) * s.cfg.timeOsr ∧
        bin = f0 + syncTone s.syncMap k)) → s.pmAt row fs bin = 0) →
    syncScore s fs0 t0 f0 = 7 * A ∧
    (∀ fs t f, (fs, t, f) ∈ searchPositions s.cfg → (fs, t, f) ≠ (fs0, t0, f0) →
      syncScore s fs t f < 7 * A) ∧
    (s.minScore.toInt = 40 → 6 ≤ A → s.minScore.toInt ≤ 7 * A) ∧
    (s.minScore.toInt ≤ 7 * A → 1 ≤ s.maxCand.toNat → ∃ t, exec .sync s = .next t ∧
      t.cl.head? = some { score := BitVec.ofNat 16 (7 * A), timeOffset := BitVec.ofNat 16 t0,
                          freqOffset := BitVec.ofNat 16 f0, freqSub := BitVec.ofNat 1 fs0 })

/-! ### EXTRACT -/

/-- EXTRACT of an existing candidate that is in range (R160, R162, R163): completes, and `LLR[3d+q]`
is the largest power of a group value with bit `q` set minus the largest with it clear, within
`-255..255`; only `LLR_RDY` is set, `CUR_CAND` is the index, and nothing else changes. -/
def Obligations.ExtractGivesTheMaxLogDifferences : Prop :=
  ∀ (s : State) (idx : Nat), idx < s.candCount.toNat → inRange s.cfg (s.candidate idx) = true →
    ∃ t, exec (.extract idx) s = .next t ∧
      t = { s with
        running := none, done := true, err := .ok, phase := .idle, llr := t.llr,
        curCand := BitVec.ofNat 7 idx,
        valid := { llrRdy := true, cwOk := false, payOk := false, msgOk := false } } ∧
      t.llr.length = 174 ∧
      (∀ d < 58, ∀ q < 3, ∃ one zero : Int,
        IsGreatest { x | ∃ j < 8, j / 2 ^ (2 - q) % 2 = 1 ∧
          x = groupPower s (s.candidate idx) d j } one ∧
        IsGreatest { x | ∃ j < 8, j / 2 ^ (2 - q) % 2 = 0 ∧
          x = groupPower s (s.candidate idx) d j } zero ∧
        t.llrAt (3 * d + q) = one - zero ∧ -255 ≤ one - zero ∧ one - zero ≤ 255) ∧
      ∀ c, t.pmCell c = s.pmCell c

/-- `E_OPERAND` (R161): EXTRACT raises it when `idx >= CAND_COUNT`, so every `idx` in `64..255` raises
it; the command then changes only `STATUS` and the phase. -/
def Obligations.ExtractBeyondTheListRaisesOperand : Prop :=
  ∀ (s : State) (idx : Nat), s.Inv → (s.candCount.toNat ≤ idx ∨ 64 ≤ idx) →
    exec (.extract idx) s =
      .next { s with running := none, done := true, err := .operand, phase := .idle }

/-- `E_GEOM` (R162): EXTRACT of a listed candidate raises it exactly when its position puts part of
the transmission outside the matrix; the command then changes only `STATUS` and the phase.  When it is
not raised, every sample read is inside `PM`. -/
def Obligations.ExtractOutsideTheMatrixRaisesGeom : Prop :=
  ∀ (s : State) (idx : Nat), idx < s.candCount.toNat →
    let c := s.candidate idx
    let inside := 0 ≤ c.timeOffset.toInt ∧
      c.timeOffset.toInt ≤ (s.cfg.numRows : Int) - 1 - 78 * s.cfg.timeOsr ∧
      (c.freqOffset.toNat : Int) ≤ (s.cfg.numBins : Int) - 8
    (¬ inside → exec (.extract idx) s =
      .next { s with running := none, done := true, err := .geom, phase := .idle }) ∧
    (inside → (∃ t, exec (.extract idx) s = .next t ∧ t.err = .ok) ∧
      ∀ d < 58, ∀ j < 8, cellIndex s.cfg (symbolRow s.cfg c.timeOffset.toNat (dataSymbol d))
        c.freqSub.toNat (c.freqOffset.toNat + grayTone s.grayMap j) < s.cfg.pmBytes)

/-! ### LDPC -/

/-- LDPC with `LLR_RDY` set (R175, R177 to R180, R182, R183): completes; the channel values are the
clamped `LLR`, `HARD` is the hard decision of the pass that follows iteration `ITER_CNT` from zero
messages, and every earlier pass had errors; `ERRORS` is the number of checks that `HARD` fails, so it
is 0 exactly when `HARD` is a codeword, and `CW_OK` says so; `ITER_CNT` is at most `MAX_ITER`, and equal
to it when errors are left; nothing else changes but `PAY_OK` and `MSG_OK`, which are cleared. -/
def Obligations.LdpcReportsTheErrorsOfItsHardDecision : Prop :=
  ∀ s : State, s.cfg.legal = true → s.valid.llrRdy = true →
    ∃ t, exec .ldpc s = .next t ∧
      t = { s with
        running := none, done := true, err := .ok, phase := .idle, hard := t.hard,
        ldpcErrors := t.ldpcErrors, ldpcIter := t.ldpcIter,
        valid := { llrRdy := true, cwOk := t.valid.cwOk, payOk := false, msgOk := false } } ∧
      (∀ l : List Int, l.length = 174 →
        (∀ i < 174, l.getD i 0 = max (-2047) (min 2047 (s.llrAt i))) →
        (∀ i < 174, t.hard.getMsbD i = decisionAfter s.cfg.h l t.ldpcIter.toNat i) ∧
        ∀ n < t.ldpcIter.toNat, ∃ row ∈ s.cfg.h,
          (row.map fun i => decisionAfter s.cfg.h l n i).foldl xor false = true) ∧
      t.ldpcErrors.toNat = s.cfg.h.countP (fun row =>
        (row.map fun i => t.hard.getMsbD i).foldl xor false) ∧
      (t.ldpcErrors = 0 ↔ IsCodeword s.cfg.h t.hard) ∧
      (t.valid.cwOk = true ↔ t.ldpcErrors = 0) ∧
      t.ldpcIter.toNat ≤ s.maxIter.toNat ∧
      (t.ldpcErrors ≠ 0 → t.ldpcIter = s.maxIter) ∧
      ∀ c, t.pmCell c = s.pmCell c

/-- The first pass decides on the channel values alone (R178, R179, R182, R185): if their signs are a
codeword, LDPC ends after 0 iterations with that codeword. -/
def Obligations.LdpcStopsAtOnceOnAChannelCodeword : Prop :=
  ∀ (s : State) (x : BitVec 174), s.valid.llrRdy = true → IsCodeword s.cfg.h x →
    (∀ i < 174, x.getMsbD i = decide (0 < s.llrAt i)) →
    ∃ t, exec .ldpc s = .next t ∧ t.hard = x ∧ t.ldpcErrors = 0 ∧ t.ldpcIter = 0 ∧
      t.valid.cwOk = true

/-- The messages of every iteration stay within the saturation bound, and the totals within
`(1 + |Nv(i)|) * SAT` (R178, R181). -/
def Obligations.LdpcMessagesStayWithinSaturation : Prop :=
  ∀ (h : List (List Nat)) (rm : List (List Int)) (l : List Int),
    (∀ v ∈ l, |v| ≤ 2047) → (∀ msgs ∈ rm, ∀ r ∈ msgs, |r| ≤ 2047) →
    (∀ msgs ∈ nextMessages h (totals h rm l) rm, ∀ r ∈ msgs, |r| ≤ 2047) ∧
    ∀ i < l.length, |(totals h rm l).getD i 0| ≤
      (1 + (h.countP fun row => row.contains i : Nat)) * 2047

/-- One pass and one iteration of the decoder, edge by edge.  A total is the channel value and the
messages to that column (R178).  A check-to-variable message comes from the clamped differences on the
other edges of its check (R180, R181): its magnitude is the least of theirs, positive exactly when an
odd number of them is.  So a check with one other edge passes that edge's message on, a message that is
exactly 0 silences the check, and a common non-negative factor of the incoming messages is a factor of
the outgoing one (R181, R184, R185). -/
def Obligations.CheckMessageFollowsItsOtherEdges : Prop :=
  (∀ (h : List (List Nat)) (rm : List (List Int)) (l : List Int) (i : Nat), i < l.length →
    (totals h rm l).getD i 0 = l.getD i 0 + ((List.range h.length).map fun m =>
      if i ∈ h.getD m [] then (rm.getD m []).getD ((h.getD m []).idxOf i) 0 else 0).sum) ∧
  (∀ (h : List (List Nat)) (rm : List (List Int)) (z : List Int) (m k : Nat),
    m < h.length → m < rm.length → (rm.getD m []).length = (h.getD m []).length →
    k < (h.getD m []).length →
    ((nextMessages h z rm).getD m []).getD k 0 =
      checkMessage (((List.range (h.getD m []).length).filter (· ≠ k)).map fun j =>
        max (-2047) (min 2047 (z.getD ((h.getD m []).getD j 0) 0 - (rm.getD m []).getD j 0)))) ∧
  (∀ others : List Int, others ≠ [] → ∃ mag : Int,
    IsLeast { x | ∃ q ∈ others, x = |q| } mag ∧
    checkMessage others = if others.countP (fun q => decide (0 < q)) % 2 = 1 then mag else -mag) ∧
  (∀ q : Int, checkMessage [q] = q) ∧
  (∀ others : List Int, (0 : Int) ∈ others → checkMessage others = 0) ∧
  ∀ (k : Int) (others : List Int), 0 ≤ k →
    checkMessage (others.map (k * ·)) = k * checkMessage others

/-! ### CHECK -/

/-- CHECK with `CW_OK` set (R200, R201, R202): completes; `A91` is the first 91 hard bits and five
zeros; `CRC_RX` is its bits 77 to 90, `CRC_CALC` the checksum of its first 77 bits and five zeros;
`CRC_OK` and `PAY_OK` say whether they match, `MSG_OK` is cleared, nothing else changes. -/
def Obligations.CheckPacksAndComparesThePayload : Prop :=
  ∀ s : State, s.valid.cwOk = true →
    ∃ t, exec .check s = .next t ∧
      t = { s with
        running := none, done := true, err := .ok, phase := .idle, a91 := t.a91,
        crcRx := t.crcRx, crcCalc := t.crcCalc, crcOk := t.crcOk,
        valid := { s.valid with payOk := t.crcOk, msgOk := false } } ∧
      (∀ i < 91, t.a91.getMsbD i = s.hard.getMsbD i) ∧
      (∀ i, 91 ≤ i → t.a91.getMsbD i = false) ∧
      (∀ i < 14, t.crcRx.getMsbD i = s.hard.getMsbD (77 + i)) ∧
      t.crcCalc = crc14 ((List.range 82).map fun i => i < 77 && s.hard.getMsbD i) ∧
      (t.crcOk = true ↔ t.crcRx = t.crcCalc) ∧
      ∀ c, t.pmCell c = s.pmCell c

/-- The detection property (R205): flipping any single one of the 91 bits of a payload whose check
matches gives a payload whose check does not match.  A flipped checksum bit changes only the embedded
checksum; a flipped message bit only the computed one, by the checksum of the lone bit. -/
def Obligations.CheckDetectsEverySingleBitFlip : Prop :=
  ∀ (a b : BitVec 96) (i : Nat), i < 91 → embeddedCrc a = computedCrc a →
    (∀ k < 96, b.getMsbD k = (if k = i then !a.getMsbD k else a.getMsbD k)) →
    embeddedCrc b ≠ computedCrc b ∧
    (77 ≤ i → embeddedCrc b ≠ embeddedCrc a ∧ computedCrc b = computedCrc a) ∧
    (i < 77 → embeddedCrc b = embeddedCrc a ∧
      computedCrc b = computedCrc a ^^^ crc14 ((List.range 82).map fun k => k == i) ∧
      crc14 ((List.range 82).map fun k => k == i) ≠ 0)

/-! ### UNPACK -/

/-- UNPACK with `PAY_OK` set (R215, R216): always completes with `ERR = 0`; on success `MSG` is the
unpacked message and `MSG_OK` is set, on failure `MSG` is all zero, `UFAIL` names the reason and
`MSG_OK` is 0; the tags are recorded and nothing else changes, the hash table included (R237). -/
def Obligations.UnpackWritesTheMessageOrTheReason : Prop :=
  ∀ s : State, s.valid.payOk = true →
    ∃ t, exec .unpack s = .next t ∧
      t = { s with
        running := none, done := true, err := .ok, phase := .idle, msg := t.msg,
        ufail := t.ufail, i3 := t.i3, n3 := t.n3,
        valid := { s.valid with msgOk := t.valid.msgOk } } ∧
      (∀ k < 3, t.i3.getMsbD k = s.a91.getMsbD (74 + k) ∧ t.n3.getMsbD k = s.a91.getMsbD (71 + k)) ∧
      (match unpackMessage s.ht (message77 s.a91) with
       | .ok m => t.msg = m ∧ t.ufail = .none ∧ t.valid.msgOk = true
       | .error e => t.msg = Msg.zero ∧ t.ufail = e ∧ e ≠ .none ∧ t.valid.msgOk = false) ∧
      ∀ c, t.pmCell c = s.pmCell c

/-- The dispatch (R217): the ten tag combinations that name no format fail with `UF_TAG`, and no other
message does. -/
def Obligations.UnpackFailsWithTagExactlyOnUnnamedFormats : Prop :=
  ∀ (ht : List Slot) (m : BitVec 77),
    unpackMessage ht m = .error .tag ↔
      (bitField m 74 76 = 0 ∧ bitField m 71 73 ∉ [0, 5]) ∨ bitField m 74 76 ∈ [3, 5, 6, 7]

/-- The two formats without callsigns.  Free text (R218): a 71-bit value with the base-42 digits `ds`,
most significant first, unpacks to the trimmed characters of `T42`, and a value of `42^13` or more fails
with `UF_TEXT`.  Telemetry (R219): always the 18 upper-case hexadecimal digits, leading zeros kept. -/
def Obligations.FreeTextAndTelemetryAreTheirDigits : Prop :=
  ∀ (ht : List Slot) (m : BitVec 77), bitField m 74 76 = 0 →
    (bitField m 71 73 = 0 → ∀ ds : List Nat, ds.length = 13 → (∀ d ∈ ds, d < 42) →
      bitField m 0 70 = ds.foldl (fun n d => 42 * n + d) 0 →
      unpackMessage ht m =
        .ok { Msg.zero with f1 := trim (ds.map (tableAt table42)), kind := .free }) ∧
    (bitField m 71 73 = 0 → 42 ^ 13 ≤ bitField m 0 70 → unpackMessage ht m = .error .text) ∧
    (bitField m 71 73 = 5 → ∃ f1 : Text, f1.length = 18 ∧
      unpackMessage ht m = .ok { Msg.zero with f1 := f1, kind := .telemetry } ∧
      ∀ p < 18, f1.getD p 0 =
        (ascii ['0', '1', '2', '3', '4', '5', '6', '7', '8', '9', 'A', 'B', 'C', 'D', 'E',
          'F']).getD (bitField m 0 70 >>> (4 * (17 - p)) &&& 0xF) 0)

/-- The standard callsign (R226): from the mixed-radix digits 37, 36, 10, 27, 27, 27 it is the trimmed
six characters, with `/R` or `/P` after it when the suffix flag is set. -/
def Obligations.StandardCallsignIsItsMixedRadixDigits : Prop :=
  ∀ (c0 c1 c2 c3 c4 c5 : Nat) (ip : Bool),
    c0 < 37 → c1 < 36 → c2 < 10 → c3 < 27 → c4 < 27 → c5 < 27 →
    let v := ((((c0 * 36 + c1) * 10 + c2) * 27 + c3) * 27 + c4) * 27 + c5
    let t := trim [tableAt table37 c0, tableAt table36 c1, tableAt table10 c2,
      tableAt table27 c3, tableAt table27 c4, tableAt table27 c5]
    v < 262177560 ∧
    stdCall v ip 1 = t ++ (if ip then ascii ['/', 'R'] else []) ∧
    stdCall v ip 2 = t ++ (if ip then ascii ['/', 'P'] else [])

/-- The nonstandard message (R230): the 11 base-38 digits of `n58` are the callsign; with `icq` it is
a CQ from it; otherwise the 12-bit hash names the other station on the side `iflip` says, and the end
code gives the third field; values no encoder produces fail. -/
def Obligations.NonstandardMessageFollowsItsFields : Prop :=
  ∀ (ht : List Slot) (m : BitVec 77), bitField m 74 76 = 4 →
    (38 ^ 11 ≤ bitField m 12 69 → unpackMessage ht m = .error .call) ∧
    (bitField m 12 69 = 0 → unpackMessage ht m = .error .empty) ∧
    ∀ ds : List Nat, ds.length = 11 → (∀ d ∈ ds, d < 38) →
      bitField m 12 69 = ds.foldl (fun n d => 38 * n + d) 0 → bitField m 12 69 ≠ 0 →
      let call := trim (ds.map (tableAt table38))
      (m.getMsbD 73 = true → unpackMessage ht m =
        .ok { Msg.zero with f1 := ascii ['C', 'Q'], f2 := call, kind := .cq }) ∧
      (m.getMsbD 73 = false → ∃ r, unpackMessage ht m = .ok r ∧
        r.locValid = false ∧ r.loc = 0 ∧
        r.f3 = (match bitField m 71 72 with
          | 0 => []
          | 1 => ascii ['R', 'R', 'R']
          | 2 => ascii ['R', 'R', '7', '3']
          | _ => ascii ['7', '3']) ∧
        r.kind = (if r.hashMiss then .unknown else match bitField m 71 72 with
          | 0 => .blank
          | 1 => .rrr
          | 2 => .rr73
          | _ => .k73) ∧
        (if m.getMsbD 70 then r.f1 else r.f2) = call ∧
        match ht.find? (fun e => e.key.toNat / 2 ^ 10 = bitField m 0 11) with
        | some e => r.hashMiss = false ∧
            (if m.getMsbD 70 then r.f2 else r.f1) = ascii ['<'] ++ e.text ++ ascii ['>']
        | none => r.hashMiss = true ∧
            (if m.getMsbD 70 then r.f2 else r.f1) = ascii ['<', '.', '.', '.', '>'])

/-- The third field of a standard message, range by range (R121, R227, R228, R232). -/
def Obligations.ThirdFieldFollowsTheRangesOfG15 : Prop :=
  (∀ (L0 L1 D0 D1 : Nat) (ir : Bool), L0 < 18 → L1 < 18 → D0 < 10 → D1 < 10 →
    let loc : Text := [BitVec.ofNat 8 (65 + L0), BitVec.ofNat 8 (65 + L1),
      BitVec.ofNat 8 (48 + D0), BitVec.ofNat 8 (48 + D1)]
    third (((L0 * 18 + L1) * 10 + D0) * 10 + D1) ir =
      .ok { text := if ir then ascii ['R', ' '] ++ loc else loc
            kind := if L0 = 17 ∧ L1 = 17 ∧ D0 = 7 ∧ D1 = 3 then .rr73 else .loc
            isGrid := true, l1 := L1, loc := loc }) ∧
  (∀ ir, third 32400 ir = .error .report ∧
    third 32401 ir = .ok (endField [] .blank) ∧
    third 32402 ir = .ok (endField (ascii ['R', 'R', 'R']) .rrr) ∧
    third 32403 ir = .ok (endField (ascii ['R', 'R', '7', '3']) .rr73) ∧
    third 32404 ir = .ok (endField (ascii ['7', '3']) .k73)) ∧
  (∀ (r : Int) (ir : Bool), -30 ≤ r → r ≤ 99 →
    third (r + 32435).toNat ir =
      .ok { text := ascii ((if ir then ['R'] else []) ++ [if 0 ≤ r then '+' else '-',
              Char.ofNat (48 + r.natAbs / 10), Char.ofNat (48 + r.natAbs % 10)])
            kind := if ir then .rrsl else .rsl, isGrid := false, l1 := 0, loc := [] }) ∧
  ∀ (g : Nat) (ir : Bool), 32535 ≤ g → third g ir = .error .report

/-- A 28-bit callsign field, range by range (R120, R221 to R225); the standard callsigns have their
own statement. -/
def Obligations.CallsignFieldFollowsTheRangesOfN28 : Prop :=
  ∀ (ht : List Slot) (ip : Bool) (i3 : Nat),
    call28 ht 0 ip i3 = .ok (ascii ['D', 'E'], false) ∧
    call28 ht 1 ip i3 = .ok (ascii ['Q', 'R', 'Z'], false) ∧
    call28 ht 2 ip i3 = .ok (ascii ['C', 'Q'], false) ∧
    (∀ a b c, a < 10 → b < 10 → c < 10 → call28 ht (3 + (100 * a + 10 * b + c)) ip i3 =
      .ok (ascii ['C', 'Q', ' ', Char.ofNat (48 + a), Char.ofNat (48 + b), Char.ofNat (48 + c)],
        false)) ∧
    (∀ a b c d, a < 27 → b < 27 → c < 27 → d < 27 → 0 < a + b + c + d →
      call28 ht (1003 + (((a * 27 + b) * 27 + c) * 27 + d)) ip i3 =
        .ok (ascii ['C', 'Q', ' '] ++ trim ([a, b, c, d].map (tableAt table27)), false)) ∧
    call28 ht 1003 ip i3 = .ok (ascii ['C', 'Q'], false) ∧
    (∀ n, 532444 ≤ n → n ≤ 2063591 → call28 ht n ip i3 = .error .token) ∧
    (∀ key : BitVec 22, call28 ht (2063592 + key.toNat) ip i3 =
      match ht.find? (fun e => e.key = key) with
      | some e => .ok (ascii ['<'] ++ e.text ++ ascii ['>'], false)
      | none => .ok (ascii ['<', '.', '.', '.', '>'], true)) ∧
    ∀ n, 6257896 ≤ n → call28 ht n ip i3 = .ok (stdCall (n - 6257896) ip i3, false)

/-- The standard message (R114, R220, R233, R234).  If one of its three sub-fields fails, it fails with
the reason of the first that does.  If all decode, it unpacks to their texts; the kind is the third
field's, unless a lookup missed (then the sentinel), unless the destination is CQ (then always CQ);
`LOC_VALID` holds exactly for a locator without `R` whose second letter is `B`..`Q`. -/
def Obligations.StandardMessageIsClassifiedInOrder : Prop :=
  ∀ (ht : List Slot) (m : BitVec 77), (bitField m 74 76 = 1 ∨ bitField m 74 76 = 2) →
    let first := call28 ht (bitField m 0 27) (m.getMsbD 28) (bitField m 74 76)
    let second := call28 ht (bitField m 29 56) (m.getMsbD 57) (bitField m 74 76)
    let last := third (bitField m 59 73) (m.getMsbD 58)
    (∀ e, first = .error e → unpackMessage ht m = .error e) ∧
    (∀ a e, first = .ok a → second = .error e → unpackMessage ht m = .error e) ∧
    (∀ a b e, first = .ok a → second = .ok b → last = .error e →
      unpackMessage ht m = .error e) ∧
    ∀ a b t, first = .ok a → second = .ok b → last = .ok t →
      ∃ r, unpackMessage ht m = .ok r ∧
        r.f1 = a.1 ∧ r.f2 = b.1 ∧ r.f3 = t.text ∧ r.hashMiss = (a.2 || b.2) ∧
        r.kind = (if 2 ≤ bitField m 0 27 ∧ bitField m 0 27 ≤ 532443 then .cq
          else if a.2 || b.2 then .unknown else t.kind) ∧
        (r.locValid = true ↔ bitField m 59 73 ≤ 32399 ∧ m.getMsbD 58 = false ∧
          1 ≤ bitField m 59 73 / 100 % 18 ∧ bitField m 59 73 / 100 % 18 ≤ 16) ∧
        (∀ k < 4, r.loc.extractLsb' (8 * k) 8 = if r.locValid then t.loc.getD k 0 else 0)

/-- CQ always overrides (R233): a standard message has the kind CQ exactly when its first field is
`CQ` or begins with `CQ` and a space, a nonstandard one exactly when its CQ flag is set.  (For the
nonstandard format R233's reading from the text is not claimed: a base-38 callsign may itself spell
`CQ` while the flag is clear; log entry 9.) -/
def Obligations.CqIsTheKindExactlyWhenTheDestinationIsCq : Prop :=
  ∀ (ht : List Slot) (m : BitVec 77) (r : Msg), unpackMessage ht m = .ok r →
    ((bitField m 74 76 = 1 ∨ bitField m 74 76 = 2) →
      (r.kind = .cq ↔ r.f1 = ascii ['C', 'Q'] ∨ ascii ['C', 'Q', ' '] <+: r.f1)) ∧
    (bitField m 74 76 = 4 → (r.kind = .cq ↔ m.getMsbD 73 = true)) ∧
    (bitField m 74 76 = 0 → r.kind = .free ∨ r.kind = .telemetry)

/-! ### The hash table -/

/-- HTADD of a valid text (R270, R272, R273): completes, answers the key, and stores the text under it:
in the slot that holds the key, or in a new last slot; nothing else changes.  The key of a valid text is
the top 22 of the low 64 bits of the product of 47055833459 and the number whose 11 base-38 digits are
the text's positions in `T38`, padded on the right with spaces. -/
def Obligations.HtaddStoresAValidText : Prop :=
  (∀ t : Text, t.length ≤ 11 → (∀ b ∈ t, b ∈ table38) →
    (hash22 t).toNat = ((List.range 11).map fun p =>
      (ascii [' ', '0', '1', '2', '3', '4', '5', '6', '7', '8', '9', 'A', 'B', 'C', 'D', 'E', 'F',
        'G', 'H', 'I', 'J', 'K', 'L', 'M', 'N', 'O', 'P', 'Q', 'R', 'S', 'T', 'U', 'V', 'W', 'X',
        'Y', 'Z', '/']).idxOf (t.getD p 0x20) * 38 ^ (10 - p)).sum * 47055833459 % 2 ^ 64 / 2 ^ 42) ∧
  ∀ s : State, validCallsign s.htTextOperand = true →
    ((∃ e ∈ s.ht, e.key = hash22 s.htTextOperand) ∨ s.ht.length ≠ s.cfg.htCap) →
    ∃ t, exec .htadd s = .next t ∧
      t = { s with
        running := none, done := true, err := .ok, phase := .idle, ht := t.ht,
        htKeyOut := (hash22 s.htTextOperand).setWidth 32 } ∧
      ((∃ e ∈ s.ht, e.key = hash22 s.htTextOperand) →
        t.ht.map Slot.key = s.ht.map Slot.key ∧
        ∀ (i : Nat) (e : Slot), s.ht[i]? = some e → t.ht[i]? = some
          { e with text := if e.key = hash22 s.htTextOperand then s.htTextOperand else e.text }) ∧
      ((∀ e ∈ s.ht, e.key ≠ hash22 s.htTextOperand) →
        t.ht = s.ht ++ [{ key := hash22 s.htTextOperand, text := s.htTextOperand }]) ∧
      ∀ c, t.pmCell c = s.pmCell c

/-- HTADD that fails (R270, R273, R274, R324): an invalid text raises `E_HT_INVALID`, a new key into a
full table `E_HT_FULL`; only `STATUS`, the phase and the sentinel in `HT_KEY_OUT` change. -/
def Obligations.HtaddRejectsWithTheSentinel : Prop :=
  ∀ s : State,
    ((s.htTextOperand.length < 1 ∨ 11 < s.htTextOperand.length ∨
        ∃ b ∈ s.htTextOperand, b ∉ table38) →
      exec .htadd s = .next { s with
        running := none, done := true, err := .htInvalid, phase := .idle,
        htKeyOut := 0xFFFFFFFF }) ∧
    (validCallsign s.htTextOperand = true → (∀ e ∈ s.ht, e.key ≠ hash22 s.htTextOperand) →
      s.ht.length = s.cfg.htCap →
      exec .htadd s = .next { s with
        running := none, done := true, err := .htFull, phase := .idle,
        htKeyOut := 0xFFFFFFFF })

/-- The text operand of HTADD (R12, R270, R271) is `HT_TEXT_IN[0 .. HT_LEN_IN-1]` without the spaces at
its ends and with lower-case letters in upper case; HTADD raises `E_HT_INVALID` exactly when that is not
1 to 11 characters of `T38`, and otherwise, if the table has room, stores it under its key. -/
def Obligations.HtaddNormalisesItsText : Prop :=
  ∀ (s : State) (pre mid post : Text), (∀ b ∈ pre ++ post, b = 0x20) →
    mid.head? ≠ some 0x20 → mid.getLast? ≠ some 0x20 →
    s.htTextIn.take s.htLenIn.toNat = pre ++ mid ++ post →
    let operand := mid.map fun b =>
      if 0x61 ≤ b.toNat ∧ b.toNat ≤ 0x7A then BitVec.ofNat 8 (b.toNat - 0x20) else b
    s.htTextOperand = operand ∧
    ∃ t, exec .htadd s = .next t ∧
      (t.err = .htInvalid ↔
        ¬ (1 ≤ operand.length ∧ operand.length ≤ 11 ∧ ∀ b ∈ operand, b ∈ table38)) ∧
      (1 ≤ operand.length → operand.length ≤ 11 → (∀ b ∈ operand, b ∈ table38) →
        s.ht.length < s.cfg.htCap →
        t.err = .ok ∧ t.htKeyOut.toNat = (hash22 operand).toNat ∧
        { key := hash22 operand, text := operand } ∈ t.ht)

/-- The round trip of R282: after a successful HTADD, HTLOOK with its key returns the normalised
text. -/
def Obligations.LookupAfterAddReturnsTheText : Prop :=
  ∀ s t u : State, exec .htadd s = .next t → t.err = .ok →
    exec .htlook { t with htKeyIn := t.htKeyOut.setWidth 22 } = .next u →
    u.htTextOut = s.htTextOperand ∧ u.err = .ok ∧ u.ht = t.ht

/-- HTLOOK and HTLOOK12 (R276 to R279): both complete; the result is the text of the slot with the
key, or of the earliest-filled slot whose top 12 key bits match, or empty; nothing else changes. -/
def Obligations.LookupsReturnTheEarliestMatchingSlot : Prop :=
  ∀ s : State,
    (∃ t, exec .htlook s = .next t ∧
      t = { s with
        running := none, done := true, err := .ok, phase := .idle, htTextOut := t.htTextOut } ∧
      (∀ (k : Nat) (e : Slot), s.ht[k]? = some e → e.key = s.htKeyIn →
        (∀ j < k, ∀ e' : Slot, s.ht[j]? = some e' → e'.key ≠ s.htKeyIn) → t.htTextOut = e.text) ∧
      ((∀ e ∈ s.ht, e.key ≠ s.htKeyIn) → t.htTextOut = []) ∧
      ∀ c, t.pmCell c = s.pmCell c) ∧
    ∃ t, exec .htlook12 s = .next t ∧
      t = { s with
        running := none, done := true, err := .ok, phase := .idle, htTextOut := t.htTextOut } ∧
      (∀ (k : Nat) (e : Slot), s.ht[k]? = some e → e.key.toNat / 2 ^ 10 = s.htKeyIn.toNat % 2 ^ 12 →
        (∀ j < k, ∀ e' : Slot, s.ht[j]? = some e' →
          e'.key.toNat / 2 ^ 10 ≠ s.htKeyIn.toNat % 2 ^ 12) → t.htTextOut = e.text) ∧
      ((∀ e ∈ s.ht, e.key.toNat / 2 ^ 10 ≠ s.htKeyIn.toNat % 2 ^ 12) → t.htTextOut = []) ∧
      ∀ c, t.pmCell c = s.pmCell c

/-! ### The result store, DECODE -/

/-- STORE with `MSG_OK` set (R290 to R294): a message whose three texts are those of a stored record
is a duplicate; otherwise a full store drops it; otherwise its record is appended.  Nothing else
changes. -/
def Obligations.StoreAppendsUnlessDuplicateOrFull : Prop :=
  ∀ s : State, s.Inv → s.valid.msgOk = true →
    ∃ t, exec .store s = .next t ∧
      t = { s with
        running := none, done := true, err := .ok, phase := .idle, res := t.res,
        disp := t.disp } ∧
      (∃ d, t.disp = s.disp.set s.curCand.toNat d ∧
        ((∃ r ∈ s.res, r.msg.f1 ++ [0x20] ++ r.msg.f2 ++ [0x20] ++ r.msg.f3 =
            s.msg.f1 ++ [0x20] ++ s.msg.f2 ++ [0x20] ++ s.msg.f3) →
          d = .dup ∧ t.res = s.res) ∧
        ((∀ r ∈ s.res, r.msg.f1 ++ [0x20] ++ r.msg.f2 ++ [0x20] ++ r.msg.f3 ≠
            s.msg.f1 ++ [0x20] ++ s.msg.f2 ++ [0x20] ++ s.msg.f3) →
          (s.res.length = 6 → d = .full ∧ t.res = s.res) ∧
          (s.res.length < 6 → d = .stored ∧ ∃ r, t.res = s.res ++ [r] ∧
            r.msg = s.msg ∧ r.a91 = s.a91 ∧ r.slotSeq = s.slotSeq ∧
            r.timestamp = s.timestamp ∧ r.cand = s.curCand ∧ r.level = levelOf r.score ∧
            r.freqHz = freqHzOf s.baseBin r.freqOffset r.freqSub ∧
            s.cl[s.curCand.toNat]? = some (Candidate.mk r.score r.timeOffset r.freqOffset
              r.freqSub)))) ∧
      ∀ c, t.pmCell c = s.pmCell c

/-- `LEVEL` (R295): never positive, 0 for every score of 155 or more, one less for each further 6
points of score, never outside its 16 bits.  `FREQ_HZ` (R296): the floor of `x * 3.125` Hz, `x` the
frequency in half-bins, modulo `2^16`, which has no effect for `x <= 20971`. -/
def Obligations.LevelAndFrequencyFollowTheirFormulas : Prop :=
  (∀ score : BitVec 16,
    ((levelOf score).toInt = 0 ↔ 155 ≤ score.toInt) ∧ -5488 ≤ (levelOf score).toInt ∧
    (levelOf score).toInt ≤ 0 ∧
    (score.toInt ≤ 160 → 6 * (levelOf score).toInt - 5 ≤ score.toInt - 160 ∧
      score.toInt - 160 ≤ 6 * (levelOf score).toInt)) ∧
  ∀ (b f : BitVec 16) (q : BitVec 1),
    let x := 2 * (b.toNat + f.toNat) + q.toNat
    x ≤ 262141 ∧ (freqHzOf b f q).toNat = x * 3125 / 1000 % 65536 ∧
    (x ≤ 20971 → (freqHzOf b f q).toNat = x * 3125 / 1000)

/-- CLRRES (R301): empties the result store and changes nothing else. -/
def Obligations.ClrresEmptiesTheStore : Prop :=
  ∀ s : State, exec .clrres s =
      .next { s with res := [], running := none, done := true, err := .ok, phase := .idle }

/-- NOP (R300): the word `0x00000000` written to `CMD` of an idle block is accepted and completes with
`ERR = 0`; no other state changes, `SEQ` included. -/
def Obligations.NopOnlyCompletes : Prop :=
  (∀ s : State, s.phase = .idle →
    exec .nop s = .next { s with running := none, done := true, err := .ok }) ∧
  ∀ (s : State) (rest : List Event), s.Inv → s.busy = false → s.inReset = false →
    s.inputs = .write 0x004 0x00000000 :: .engine :: rest →
    ∃ t, step s = .next t ∧ t.running = some 0 ∧
      step t = .next { s with done := true, err := .ok, lastOp := 0, inputs := rest }

/-- The stage-order check (R327): a stage command whose input flag is 0 raises `E_SEQ` and changes
nothing but `STATUS` and the phase; no other command ever raises it. -/
def Obligations.StagesRequireTheirInputFlag : Prop :=
  (∀ (s : State) (i : Instr),
    (i = .ldpc ∧ s.valid.llrRdy = false) ∨ (i = .check ∧ s.valid.cwOk = false) ∨
    (i = .unpack ∧ s.valid.payOk = false) ∨ (i = .store ∧ s.valid.msgOk = false) →
    exec i s = .next { s with running := none, done := true, err := .seq, phase := .idle }) ∧
  ∀ (s t : State) (i : Instr), s.Inv → exec i s = .next t → t.err = .seq →
    (i = .ldpc ∧ s.valid.llrRdy = false) ∨ (i = .check ∧ s.valid.cwOk = false) ∨
    (i = .unpack ∧ s.valid.payOk = false) ∨ (i = .store ∧ s.valid.msgOk = false)

/-- DECODE as a sequence of stage commands (R304, R307, R310): it completes with `ERR = 0` and leaves
every piece of state as `CLRRES`, `SYNC` and the stage commands of each candidate would, except
`CAND_IDX`, which is the number of candidates, and the drop codes in `DISP`, which only DECODE writes: a
candidate has `DP_LDPC`, `DP_CRC` or `DP_UNPACK` exactly when its own stage commands leave `CW_OK`,
`PAY_OK` or `MSG_OK` as the first of the three that is 0, and otherwise what its STORE wrote. -/
def Obligations.DecodeIsTheSequenceOfStageCommands : Prop :=
  ∀ s : State, s.Inv → ∃ t, exec .decode s = .next t ∧ t.err = .ok ∧
    (let u := slotByCommands s
     t = { u with candIdx := u.candCount, disp := t.disp } ∧
     t.disp.length = u.disp.length ∧
     (∀ k < u.candCount.toNat, t.disp[k]? = some
       ((dropCode (commandsUpTo s (k + 1)).valid).getD (u.disp.getD k .none))) ∧
     ∀ k, u.candCount.toNat ≤ k → t.disp[k]? = u.disp[k]?) ∧
    ∀ c, t.pmCell c = s.pmCell c

/-- The state after DECODE (R311): at most 6 records and at most one for each candidate, one `DP_STORED`
for each record, every listed candidate with an outcome and none beyond them, records in the order of their candidates with
different texts, and every record's payload accepted and unpacked to its message. -/
def Obligations.DecodeAccountsForEveryCandidate : Prop :=
  ∀ s t : State, s.Inv → exec .decode s = .next t →
    t.res.length ≤ min 6 t.candCount.toNat ∧
    t.disp.count .stored = t.res.length ∧
    (∀ k d, t.disp[k]? = some d → (d = .none ↔ t.candCount.toNat ≤ k)) ∧
    (t.res.map (fun r => r.cand.toNat)).Pairwise (· < ·) ∧
    (t.res.map (fun r => assembled r.msg)).Nodup ∧
    ∀ r ∈ t.res, AcceptedPayload s.cfg.h r.a91 ∧ unpackMessage s.ht (message77 r.a91) = .ok r.msg

/-- DECODE depends on nothing but its inputs (R312): two states with the same configuration, matrix,
control registers and hash table give the same candidates, dispositions and results. -/
def Obligations.DecodeDependsOnlyOnItsInputs : Prop :=
  ∀ s s' t t' : State, s.Inv → s'.Inv →
    s'.cfg = s.cfg → (∀ c, s'.pmCell c = s.pmCell c) → s'.minScore = s.minScore →
    s'.maxCand = s.maxCand → s'.maxIter = s.maxIter → s'.syncMap = s.syncMap →
    s'.grayMap = s.grayMap → s'.baseBin = s.baseBin → s'.ht = s.ht →
    exec .decode s = .next t → exec .decode s' = .next t' →
    t'.cl = t.cl ∧ t'.candCount = t.candCount ∧ t'.disp = t.disp ∧
    t'.res = t.res.map fun r => { r with slotSeq := s'.slotSeq, timestamp := s'.timestamp }

/-! ### The host port -/

/-- A host read (R71).  A read event is `hostRead` of its address.  Of an aligned mapped address with
the engine idle, or of `STATUS` at any time, it returns the word there and changes nothing else.  The
read-only buffers read as they are laid out: `MSG` and the records of `RES`, unused records and the
words 22 to 31 zero (R27, R44), `DISP` (R45), and the byte cells of `PM`, zero beyond `PM_BYTES` (R75). -/
def Obligations.NormalReadReturnsTheWordAndChangesNothing : Prop :=
  (∀ (s : State) (a : BitVec 25) (rest : List Event), s.inputs = .read a :: rest →
    step s = .next (hostRead a.toNat { s with inputs := rest })) ∧
  (∀ (s : State) (a : BitVec 25) (l : Location) (rest : List Event), s.inReset = false →
    s.inputs = .read a :: rest → a.toNat % 4 = 0 → locate s.cfg a.toNat = some l →
    (s.busy = false ∨ a = 0x008) →
    step s = .next { s with inputs := rest, readData := readLocation s l }) ∧
  ∀ s : State, s.Inv → s.busy = false → s.inReset = false →
    let rd := fun (a : Nat) => (hostRead a s).readData
    s.msg.LaidOut (fun w => rd (0x0C0 + 4 * w)) ∧
    (∀ r < 6, ∀ w < 32, s.res.length ≤ r → rd (0x800 + 128 * r + 4 * w) = 0) ∧
    (∀ (r : Nat) (e : Record), s.res[r]? = some e →
      let word := fun (w : Nat) => rd (0x800 + 128 * r + 4 * w)
      e.msg.LaidOut word ∧
      (word 13).toNat = e.score.toNat * 2 ^ 16 + e.freqHz.toNat ∧
      (word 14).toNat = e.timeOffset.toNat * 2 ^ 16 + e.level.toNat ∧
      (word 15).toNat = e.freqSub.toNat * 2 ^ 16 + e.freqOffset.toNat ∧
      word 16 = e.slotSeq ∧ word 17 = e.timestamp ∧
      BitsLaidOut e.a91 3 (fun w => word (18 + w)) ∧
      (word 21).toNat = e.cand.toNat ∧ ∀ w, 22 ≤ w → w < 32 → word w = 0) ∧
    (∀ i < 64, byteLane (rd (0x300 + 4 * (i / 4))) (i % 4) = (s.disp.getD i .none).code.toNat) ∧
    ∀ c < 4 * s.cfg.pmWords, byteLane (rd (0x1000000 + 4 * (c / 4))) (c % 4) =
      if c < s.cfg.pmBytes then (s.pmCell c).toNat else 0

/-- Misaligned accesses (R73): a read returns 0, a write changes nothing, and `BAD_ACC` is set; while
the engine is busy `BUSY_ACC` is set too (R78; log entry 4). -/
def Obligations.MisalignedAccessIsRefused : Prop :=
  ∀ (s : State) (a : BitVec 25) (rest : List Event), s.inReset = false → a.toNat % 4 ≠ 0 →
    (s.inputs = .read a :: rest → step s = .next { s with
      inputs := rest, readData := 0, badAcc := true, busyAcc := s.busyAcc || s.busy }) ∧
    ∀ v, s.inputs = .write a v :: rest → step s = .next { s with
      inputs := rest, badAcc := true, busyAcc := s.busyAcc || s.busy }

/-- Exclusion while busy (R78): every access but one to `STATUS` is refused and flagged, a read
returns 0, and the command in progress is not disturbed.  `BAD_ACC` stays as it was for an aligned
access to a mapped location, for a write a writable one; what the other accesses do to it is log
entry 4's. -/
def Obligations.BusyEngineExcludesTheHost : Prop :=
  ∀ (s : State) (a : BitVec 25) (rest : List Event), s.inReset = false → s.busy = true →
    a ≠ 0x008 →
    (s.inputs = .read a :: rest → ∃ t, step s = .next t ∧
      t = { s with inputs := rest, readData := 0, busyAcc := true, badAcc := t.badAcc } ∧
      (a.toNat % 4 = 0 → ¬ UnmappedAddress s.cfg a.toNat → t.badAcc = s.badAcc)) ∧
    ∀ v, s.inputs = .write a v :: rest → ∃ t, step s = .next t ∧
      t = { s with inputs := rest, busyAcc := true, badAcc := t.badAcc,
                   cmdDropped := s.cmdDropped || a == 0x004 } ∧
      (a.toNat % 4 = 0 → ¬ UnmappedAddress s.cfg a.toNat → ¬ ReadOnlyAddress a.toNat →
        t.badAcc = s.badAcc)

/-- Unmapped addresses and read-only locations (R74): a read of an unmapped address, and a write there
or to a location that is not writable, is refused with `BAD_ACC`.  The first list is the unmapped ranges
of the table, the second adds its read-only locations. -/
def Obligations.UnmappedAndReadOnlyAccessesAreRefused : Prop :=
  ∀ (s : State) (a : BitVec 25) (rest : List Event), s.inReset = false → s.busy = false →
    a.toNat % 4 = 0 →
    (s.inputs = .read a :: rest →
      (0x068 ≤ a.toNat ∧ a.toNat < 0x070) ∨ (0x08C ≤ a.toNat ∧ a.toNat < 0x090) ∨
      (0x09C ≤ a.toNat ∧ a.toNat < 0x0A0) ∨ (0x0B8 ≤ a.toNat ∧ a.toNat < 0x0C0) ∨
      (0x0F4 ≤ a.toNat ∧ a.toNat < 0x100) ∨ (0x340 ≤ a.toNat ∧ a.toNat < 0x400) ∨
      (0x55C ≤ a.toNat ∧ a.toNat < 0x800) ∨ (0xB00 ≤ a.toNat ∧ a.toNat < 0x1000000) ∨
      0x1000000 + 4 * s.cfg.pmWords ≤ a.toNat →
      step s = .next { s with inputs := rest, readData := 0, badAcc := true }) ∧
    (∀ v, s.inputs = .write a v :: rest →
      a.toNat ∈ [0x000, 0x038, 0x03C, 0x040, 0x044, 0x048, 0x04C, 0x050, 0x054, 0x05C, 0x064] ∨
      (0x068 ≤ a.toNat ∧ a.toNat < 0x070) ∨ (0x080 ≤ a.toNat ∧ a.toNat < 0x090) ∨
      (0x09C ≤ a.toNat ∧ a.toNat < 0x0A0) ∨ (0x0B8 ≤ a.toNat ∧ a.toNat < 0x100) ∨
      (0x300 ≤ a.toNat ∧ a.toNat < 0x400) ∨ (0x55C ≤ a.toNat ∧ a.toNat < 0x1000000) ∨
      0x1000000 + 4 * s.cfg.pmWords ≤ a.toNat →
      step s = .next { s with inputs := rest, badAcc := true })

/-- A write to `STATUS` (R40), busy or not: it clears exactly those of the bits 1, 8, 9, 10 whose
written bit is 1, and has no other effect. -/
def Obligations.StatusWriteClearsTheWrittenFlags : Prop :=
  ∀ (s : State) (v : Word) (rest : List Event), s.inReset = false →
    s.inputs = .write 0x008 v :: rest →
    ∃ t, step s = .next t ∧
      t = { s with inputs := rest, done := t.done, cmdDropped := t.cmdDropped,
                   busyAcc := t.busyAcc, badAcc := t.badAcc } ∧
      t.statusWord = s.statusWord &&& ~~~(v &&& 0x00000702)

/-- A write event is `hostWrite` of its address and value.  A register written while idle (R30 to R37,
R41, R42, R72) reads back as its own rule says, truncated, or clamped where the register is WARL, and
all other state stays as it was. -/
def Obligations.ControlRegistersReadBackAsWritten : Prop :=
  (∀ (s : State) (a : BitVec 25) (v : Word) (rest : List Event), s.inputs = .write a v :: rest →
    step s = .next (hostWrite a.toNat v { s with inputs := rest })) ∧
  ∀ (s : State) (v : Word), s.cfg.legal = true → s.busy = false → s.inReset = false →
    let wr := fun (a : Nat) => hostWrite a v s
    let rd := fun (a : Nat) => (hostRead a (wr a)).readData.toNat
    (rd 0x00C = v.toNat % 2 ∧ wr 0x00C = { s with ie := (wr 0x00C).ie }) ∧
    (rd 0x010 = v.toNat % 2 ^ 16 ∧ wr 0x010 = { s with minScore := (wr 0x010).minScore }) ∧
    (rd 0x014 = min v.toNat s.cfg.candCap ∧ wr 0x014 = { s with maxCand := (wr 0x014).maxCand }) ∧
    (rd 0x018 = v.toNat % 2 ^ 8 ∧ wr 0x018 = { s with maxIter := (wr 0x018).maxIter }) ∧
    (rd 0x01C = v.toNat % 2 ^ 21 ∧ wr 0x01C = { s with syncMap := (wr 0x01C).syncMap }) ∧
    (rd 0x020 = v.toNat % 2 ^ 24 ∧ wr 0x020 = { s with grayMap := (wr 0x020).grayMap }) ∧
    (rd 0x024 = v.toNat % 2 ^ 16 ∧ wr 0x024 = { s with baseBin := (wr 0x024).baseBin }) ∧
    (rd 0x028 = v.toNat ∧ wr 0x028 = { s with slotSeq := v }) ∧
    (rd 0x02C = v.toNat ∧ wr 0x02C = { s with timestamp := v }) ∧
    (rd 0x030 = v.toNat % 2 ^ 4 ∧ wr 0x030 = { s with valid := (wr 0x030).valid }) ∧
    (rd 0x034 = min v.toNat s.cfg.candCap ∧
      wr 0x034 = { s with candCount := (wr 0x034).candCount }) ∧
    (rd 0x058 = v.toNat % 2 ^ 22 ∧ wr 0x058 = { s with htKeyIn := (wr 0x058).htKeyIn }) ∧
    (rd 0x060 = min v.toNat 16 ∧ wr 0x060 = { s with htLenIn := (wr 0x060).htLenIn })

/-- The host-writable buffers `A91`, `HARD`, `CL`, `LLR` and `HT_TEXT_IN` (R22 to R25, R42, R72, R74,
R77).  First how they read, element by element; entries of `CL` at or beyond `CAND_CAP` read zero, and
no read changes anything else.  Then, buffer by buffer, a word written while idle: it reads back but for
the bits forced to zero or dropped, every other word of the buffer reads as before, and all other state
stays as it was; a write to an entry of `CL` at or beyond `CAND_CAP` changes nothing, no flag either. -/
def Obligations.BitBufferWordsReadBackAsWritten : Prop :=
  ∀ (s : State), s.Inv → s.busy = false → s.inReset = false →
    let read := fun (t : State) (a : Nat) => (hostRead a t).readData
    (BitsLaidOut s.a91 3 (fun w => read s (0x090 + 4 * w)) ∧
      BitsLaidOut s.hard 6 (fun w => read s (0x0A0 + 4 * w)) ∧
      (∀ (i : Nat) (c : Candidate), s.cl[i]? = some c →
        (read s (0x100 + 8 * i)).toNat = c.timeOffset.toNat * 2 ^ 16 + c.score.toNat ∧
        (read s (0x104 + 8 * i)).toNat = c.freqSub.toNat * 2 ^ 16 + c.freqOffset.toNat) ∧
      (∀ i w, s.cfg.candCap ≤ i → i < 64 → w < 2 →
        hostRead (0x100 + 8 * i + 4 * w) s = { s with readData := 0 }) ∧
      (∀ w < 87, (read s (0x400 + 4 * w)).toNat =
        (s.llr.getD (2 * w + 1) 0).toNat * 2 ^ 16 + (s.llr.getD (2 * w) 0).toNat) ∧
      ∀ b < 16, byteLane (read s (0x070 + 4 * (b / 4))) (b % 4) = (s.htTextIn.getD b 0).toNat) ∧
    ∀ v : Word,
      (∀ w < 3, let t := hostWrite (0x090 + 4 * w) v s
        t = { s with a91 := t.a91 } ∧
        ∀ k < 3, read t (0x090 + 4 * k) =
          if k = w then (if w = 2 then v &&& 0xE0FFFFFF else v) else read s (0x090 + 4 * k)) ∧
      (∀ w < 6, let t := hostWrite (0x0A0 + 4 * w) v s
        t = { s with hard := t.hard } ∧
        ∀ k < 6, read t (0x0A0 + 4 * k) =
          if k = w then (if w = 5 then v &&& 0x0000FCFF else v) else read s (0x0A0 + 4 * k)) ∧
      (∀ i < 64, ∀ w < 2, let t := hostWrite (0x100 + 8 * i + 4 * w) v s
        (s.cfg.candCap ≤ i → t = s) ∧
        (i < s.cfg.candCap → t = { s with cl := t.cl } ∧
          ∀ j < 64, ∀ k < 2, read t (0x100 + 8 * j + 4 * k) =
            if j = i ∧ k = w then (if w = 1 then v &&& 0x0001FFFF else v)
            else read s (0x100 + 8 * j + 4 * k))) ∧
      (∀ w < 87, let t := hostWrite (0x400 + 4 * w) v s
        t = { s with llr := t.llr } ∧
        ∀ k < 87, read t (0x400 + 4 * k) = if k = w then v else read s (0x400 + 4 * k)) ∧
      ∀ w < 4, let t := hostWrite (0x070 + 4 * w) v s
        t = { s with htTextIn := t.htTextIn } ∧
        ∀ k < 4, read t (0x070 + 4 * k) = if k = w then v else read s (0x070 + 4 * k)

/-- A `PM` word written while idle (R72, R75, R77): its four byte lanes become cells `4w` to `4w+3`,
lane `j` from bits `8j+7 : 8j`; cells at or beyond `PM_BYTES` ignore it; every other cell and all other
state stay as they are. -/
def Obligations.PowerMatrixWriteStoresFourCells : Prop :=
  ∀ (s : State) (w : Nat) (v : Word), w < s.cfg.pmWords → s.busy = false →
    s.inReset = false →
    let t := hostWrite (0x1000000 + 4 * w) v s
    t = { s with pm := t.pm } ∧
    (∀ j < 4, 4 * w + j < s.cfg.pmBytes → (t.pmCell (4 * w + j)).toNat = v.toNat / 2 ^ (8 * j) % 256) ∧
    (∀ c, (c < 4 * w ∨ 4 * w + 4 ≤ c ∨ s.cfg.pmBytes ≤ c) → t.pmCell c = s.pmCell c) ∧
    (s.pm.wf = true → t.pm.wf = true)

/-- The layout of the registers (R26, R29 to R42, R44), field by field: what a read of `STATUS` returns
at any time, with `BUSY` 1 exactly while a command runs, what a read of each other register returns
while the engine is idle, and the codes of the tags in them (R26, R128, R130, R131, R321). -/
def Obligations.RegistersReadInTheirLayout : Prop :=
  (∀ s : State, s.inReset = false →
    (s.busy = true ↔ ∃ w, s.running = some w) ∧
    (hostRead 0x008 s).readData.toNat = s.busy.toNat + 2 * s.done.toNat
      + 2 ^ 4 * s.err.code.toNat + 2 ^ 8 * s.cmdDropped.toNat + 2 ^ 9 * s.busyAcc.toNat
      + 2 ^ 10 * s.badAcc.toNat + 2 ^ 16 * s.lastOp.toNat) ∧
  (∀ s : State, s.Inv → s.busy = false → s.inReset = false →
    let rd := fun (a : Nat) => (hostRead a s).readData.toNat
    rd 0x000 = 0x46543852 ∧ rd 0x004 = 0 ∧
    rd 0x00C = s.ie.toNat ∧ rd 0x010 = s.minScore.toNat ∧ rd 0x014 = s.maxCand.toNat ∧
    rd 0x018 = s.maxIter.toNat ∧ rd 0x01C = s.syncMap.toNat ∧ rd 0x020 = s.grayMap.toNat ∧
    rd 0x024 = s.baseBin.toNat ∧ rd 0x028 = s.slotSeq.toNat ∧ rd 0x02C = s.timestamp.toNat ∧
    rd 0x030 = s.valid.llrRdy.toNat + 2 * s.valid.cwOk.toNat + 4 * s.valid.payOk.toNat
      + 8 * s.valid.msgOk.toNat ∧
    rd 0x034 = s.candCount.toNat ∧
    rd 0x038 = s.phase.code.toNat + 2 ^ 8 * s.candIdx.toNat + 2 ^ 16 * s.curCand.toNat ∧
    rd 0x03C = s.ldpcErrors.toNat + 2 ^ 8 * s.ldpcIter.toNat ∧
    rd 0x040 = s.crcRx.toNat + 2 ^ 16 * s.crcCalc.toNat + 2 ^ 31 * s.crcOk.toNat ∧
    rd 0x044 = s.ufail.code.toNat + 2 ^ 4 * s.i3.toNat + 2 ^ 8 * s.n3.toNat ∧
    rd 0x048 = s.res.length ∧
    rd 0x04C = s.cfg.numBins + 2 ^ 16 * s.cfg.numBlocks ∧
    rd 0x050 = s.cfg.timeOsr + 2 ^ 8 * 2 + 2 ^ 16 * s.cfg.candCap ∧
    rd 0x054 = s.ht.length + 2 ^ 16 * s.cfg.htCap ∧
    rd 0x058 = s.htKeyIn.toNat ∧ rd 0x05C = s.htKeyOut.toNat ∧ rd 0x060 = s.htLenIn.toNat ∧
    rd 0x064 = s.htTextOut.length ∧
    ∀ b < 12, byteLane (hostRead (0x080 + 4 * (b / 4)) s).readData (b % 4) =
      (s.htTextOut.getD b 0).toNat) ∧
  ([Phase.idle, .sync, .extract, .ldpc, .check, .unpack, .store, .hash, .clear].map
    fun p => p.code.toNat) = List.range 9 ∧
  ([ErrCode.ok, .illegal, .operand, .seq, .geom, .htInvalid, .htFull].map
    fun e => e.code.toNat) = List.range 7 ∧
  ([Kind.unknown, .cq, .loc, .rsl, .rrsl, .rrr, .rr73, .k73, .blank, .free, .telemetry].map
    fun k => k.code.toNat) = List.range 11 ∧
  ([UFail.none, .tag, .token, .report, .text, .call, .empty].map
    fun u => u.code.toNat) = List.range 7 ∧
  ([Disposition.none, .stored, .ldpc, .crc, .unpack, .dup, .full].map
    fun d => d.code.toNat) = List.range 7
end

