-- ==== Sys2Proof/Laws/State.lean ====
section
/-! SUPPORT. One lemma for each field of `State` and each shared update, so that no later proof unfolds a
record update. -/

namespace Sys2Proof.Machine

open Sys2Proof

variable (s : State)

/-- A normal completion is the completion with code 0 (R102). -/
@[simp] theorem State.complete_eq : s.complete = s.completeWith .ok := rfl

/-- Raising an error is the completion with its code (R324). -/
@[simp] theorem State.raiseErr_eq (e : ErrCode) : s.raiseErr e = s.completeWith e := rfl

/-- A completed command leaves the engine idle (R102). -/
@[simp] theorem State.completeWith_busy (e : ErrCode) : (s.completeWith e).busy = false := rfl

/-! ### `enter` -/

@[simp] theorem State.enter_cfg (ph : Phase) : (s.enter ph).cfg = s.cfg := rfl
@[simp] theorem State.enter_ie (ph : Phase) : (s.enter ph).ie = s.ie := rfl
@[simp] theorem State.enter_minScore (ph : Phase) : (s.enter ph).minScore = s.minScore := rfl
@[simp] theorem State.enter_maxCand (ph : Phase) : (s.enter ph).maxCand = s.maxCand := rfl
@[simp] theorem State.enter_maxIter (ph : Phase) : (s.enter ph).maxIter = s.maxIter := rfl
@[simp] theorem State.enter_syncMap (ph : Phase) : (s.enter ph).syncMap = s.syncMap := rfl
@[simp] theorem State.enter_grayMap (ph : Phase) : (s.enter ph).grayMap = s.grayMap := rfl
@[simp] theorem State.enter_baseBin (ph : Phase) : (s.enter ph).baseBin = s.baseBin := rfl
@[simp] theorem State.enter_slotSeq (ph : Phase) : (s.enter ph).slotSeq = s.slotSeq := rfl
@[simp] theorem State.enter_timestamp (ph : Phase) : (s.enter ph).timestamp = s.timestamp := rfl
@[simp] theorem State.enter_running (ph : Phase) : (s.enter ph).running = s.running := rfl
@[simp] theorem State.enter_done (ph : Phase) : (s.enter ph).done = s.done := rfl
@[simp] theorem State.enter_err (ph : Phase) : (s.enter ph).err = s.err := rfl
@[simp] theorem State.enter_cmdDropped (ph : Phase) : (s.enter ph).cmdDropped = s.cmdDropped := rfl
@[simp] theorem State.enter_busyAcc (ph : Phase) : (s.enter ph).busyAcc = s.busyAcc := rfl
@[simp] theorem State.enter_badAcc (ph : Phase) : (s.enter ph).badAcc = s.badAcc := rfl
@[simp] theorem State.enter_lastOp (ph : Phase) : (s.enter ph).lastOp = s.lastOp := rfl
@[simp] theorem State.enter_valid (ph : Phase) : (s.enter ph).valid = s.valid := rfl
@[simp] theorem State.enter_phase (ph : Phase) : (s.enter ph).phase = ph := rfl
@[simp] theorem State.enter_candIdx (ph : Phase) : (s.enter ph).candIdx = s.candIdx := rfl
@[simp] theorem State.enter_curCand (ph : Phase) : (s.enter ph).curCand = s.curCand := rfl
@[simp] theorem State.enter_candCount (ph : Phase) : (s.enter ph).candCount = s.candCount := rfl
@[simp] theorem State.enter_cl (ph : Phase) : (s.enter ph).cl = s.cl := rfl
@[simp] theorem State.enter_disp (ph : Phase) : (s.enter ph).disp = s.disp := rfl
@[simp] theorem State.enter_llr (ph : Phase) : (s.enter ph).llr = s.llr := rfl
@[simp] theorem State.enter_hard (ph : Phase) : (s.enter ph).hard = s.hard := rfl
@[simp] theorem State.enter_a91 (ph : Phase) : (s.enter ph).a91 = s.a91 := rfl
@[simp] theorem State.enter_msg (ph : Phase) : (s.enter ph).msg = s.msg := rfl
@[simp] theorem State.enter_ldpcErrors (ph : Phase) : (s.enter ph).ldpcErrors = s.ldpcErrors := rfl
@[simp] theorem State.enter_ldpcIter (ph : Phase) : (s.enter ph).ldpcIter = s.ldpcIter := rfl
@[simp] theorem State.enter_crcRx (ph : Phase) : (s.enter ph).crcRx = s.crcRx := rfl
@[simp] theorem State.enter_crcCalc (ph : Phase) : (s.enter ph).crcCalc = s.crcCalc := rfl
@[simp] theorem State.enter_crcOk (ph : Phase) : (s.enter ph).crcOk = s.crcOk := rfl
@[simp] theorem State.enter_ufail (ph : Phase) : (s.enter ph).ufail = s.ufail := rfl
@[simp] theorem State.enter_i3 (ph : Phase) : (s.enter ph).i3 = s.i3 := rfl
@[simp] theorem State.enter_n3 (ph : Phase) : (s.enter ph).n3 = s.n3 := rfl
@[simp] theorem State.enter_res (ph : Phase) : (s.enter ph).res = s.res := rfl
@[simp] theorem State.enter_ht (ph : Phase) : (s.enter ph).ht = s.ht := rfl
@[simp] theorem State.enter_htKeyIn (ph : Phase) : (s.enter ph).htKeyIn = s.htKeyIn := rfl
@[simp] theorem State.enter_htKeyOut (ph : Phase) : (s.enter ph).htKeyOut = s.htKeyOut := rfl
@[simp] theorem State.enter_htLenIn (ph : Phase) : (s.enter ph).htLenIn = s.htLenIn := rfl
@[simp] theorem State.enter_htTextIn (ph : Phase) : (s.enter ph).htTextIn = s.htTextIn := rfl
@[simp] theorem State.enter_htTextOut (ph : Phase) : (s.enter ph).htTextOut = s.htTextOut := rfl
@[simp] theorem State.enter_pm (ph : Phase) : (s.enter ph).pm = s.pm := rfl
@[simp] theorem State.enter_resetEpoch (ph : Phase) : (s.enter ph).resetEpoch = s.resetEpoch := rfl
@[simp] theorem State.enter_inReset (ph : Phase) : (s.enter ph).inReset = s.inReset := rfl
@[simp] theorem State.enter_inputs (ph : Phase) : (s.enter ph).inputs = s.inputs := rfl
@[simp] theorem State.enter_readData (ph : Phase) : (s.enter ph).readData = s.readData := rfl

/-! ### `enterAt` -/

@[simp] theorem State.enterAt_cfg (ph : Phase) (k : Nat) : (s.enterAt ph k).cfg = s.cfg := rfl
@[simp] theorem State.enterAt_ie (ph : Phase) (k : Nat) : (s.enterAt ph k).ie = s.ie := rfl
@[simp] theorem State.enterAt_minScore (ph : Phase) (k : Nat) :
    (s.enterAt ph k).minScore = s.minScore := rfl
@[simp] theorem State.enterAt_maxCand (ph : Phase) (k : Nat) :
    (s.enterAt ph k).maxCand = s.maxCand := rfl
@[simp] theorem State.enterAt_maxIter (ph : Phase) (k : Nat) :
    (s.enterAt ph k).maxIter = s.maxIter := rfl
@[simp] theorem State.enterAt_syncMap (ph : Phase) (k : Nat) :
    (s.enterAt ph k).syncMap = s.syncMap := rfl
@[simp] theorem State.enterAt_grayMap (ph : Phase) (k : Nat) :
    (s.enterAt ph k).grayMap = s.grayMap := rfl
@[simp] theorem State.enterAt_baseBin (ph : Phase) (k : Nat) :
    (s.enterAt ph k).baseBin = s.baseBin := rfl
@[simp] theorem State.enterAt_slotSeq (ph : Phase) (k : Nat) :
    (s.enterAt ph k).slotSeq = s.slotSeq := rfl
@[simp] theorem State.enterAt_timestamp (ph : Phase) (k : Nat) :
    (s.enterAt ph k).timestamp = s.timestamp := rfl
@[simp] theorem State.enterAt_running (ph : Phase) (k : Nat) :
    (s.enterAt ph k).running = s.running := rfl
@[simp] theorem State.enterAt_done (ph : Phase) (k : Nat) : (s.enterAt ph k).done = s.done := rfl
@[simp] theorem State.enterAt_err (ph : Phase) (k : Nat) : (s.enterAt ph k).err = s.err := rfl
@[simp] theorem State.enterAt_cmdDropped (ph : Phase) (k : Nat) :
    (s.enterAt ph k).cmdDropped = s.cmdDropped := rfl
@[simp] theorem State.enterAt_busyAcc (ph : Phase) (k : Nat) :
    (s.enterAt ph k).busyAcc = s.busyAcc := rfl
@[simp] theorem State.enterAt_badAcc (ph : Phase) (k : Nat) :
    (s.enterAt ph k).badAcc = s.badAcc := rfl
@[simp] theorem State.enterAt_lastOp (ph : Phase) (k : Nat) :
    (s.enterAt ph k).lastOp = s.lastOp := rfl
@[simp] theorem State.enterAt_valid (ph : Phase) (k : Nat) : (s.enterAt ph k).valid = s.valid := rfl
@[simp] theorem State.enterAt_phase (ph : Phase) (k : Nat) : (s.enterAt ph k).phase = ph := rfl
@[simp] theorem State.enterAt_candIdx (ph : Phase) (k : Nat) :
    (s.enterAt ph k).candIdx = BitVec.ofNat 7 k := rfl
@[simp] theorem State.enterAt_curCand (ph : Phase) (k : Nat) :
    (s.enterAt ph k).curCand = s.curCand := rfl
@[simp] theorem State.enterAt_candCount (ph : Phase) (k : Nat) :
    (s.enterAt ph k).candCount = s.candCount := rfl
@[simp] theorem State.enterAt_cl (ph : Phase) (k : Nat) : (s.enterAt ph k).cl = s.cl := rfl
@[simp] theorem State.enterAt_disp (ph : Phase) (k : Nat) : (s.enterAt ph k).disp = s.disp := rfl
@[simp] theorem State.enterAt_llr (ph : Phase) (k : Nat) : (s.enterAt ph k).llr = s.llr := rfl
@[simp] theorem State.enterAt_hard (ph : Phase) (k : Nat) : (s.enterAt ph k).hard = s.hard := rfl
@[simp] theorem State.enterAt_a91 (ph : Phase) (k : Nat) : (s.enterAt ph k).a91 = s.a91 := rfl
@[simp] theorem State.enterAt_msg (ph : Phase) (k : Nat) : (s.enterAt ph k).msg = s.msg := rfl
@[simp] theorem State.enterAt_ldpcErrors (ph : Phase) (k : Nat) :
    (s.enterAt ph k).ldpcErrors = s.ldpcErrors := rfl
@[simp] theorem State.enterAt_ldpcIter (ph : Phase) (k : Nat) :
    (s.enterAt ph k).ldpcIter = s.ldpcIter := rfl
@[simp] theorem State.enterAt_crcRx (ph : Phase) (k : Nat) : (s.enterAt ph k).crcRx = s.crcRx := rfl
@[simp] theorem State.enterAt_crcCalc (ph : Phase) (k : Nat) :
    (s.enterAt ph k).crcCalc = s.crcCalc := rfl
@[simp] theorem State.enterAt_crcOk (ph : Phase) (k : Nat) : (s.enterAt ph k).crcOk = s.crcOk := rfl
@[simp] theorem State.enterAt_ufail (ph : Phase) (k : Nat) : (s.enterAt ph k).ufail = s.ufail := rfl
@[simp] theorem State.enterAt_i3 (ph : Phase) (k : Nat) : (s.enterAt ph k).i3 = s.i3 := rfl
@[simp] theorem State.enterAt_n3 (ph : Phase) (k : Nat) : (s.enterAt ph k).n3 = s.n3 := rfl
@[simp] theorem State.enterAt_res (ph : Phase) (k : Nat) : (s.enterAt ph k).res = s.res := rfl
@[simp] theorem State.enterAt_ht (ph : Phase) (k : Nat) : (s.enterAt ph k).ht = s.ht := rfl
@[simp] theorem State.enterAt_htKeyIn (ph : Phase) (k : Nat) :
    (s.enterAt ph k).htKeyIn = s.htKeyIn := rfl
@[simp] theorem State.enterAt_htKeyOut (ph : Phase) (k : Nat) :
    (s.enterAt ph k).htKeyOut = s.htKeyOut := rfl
@[simp] theorem State.enterAt_htLenIn (ph : Phase) (k : Nat) :
    (s.enterAt ph k).htLenIn = s.htLenIn := rfl
@[simp] theorem State.enterAt_htTextIn (ph : Phase) (k : Nat) :
    (s.enterAt ph k).htTextIn = s.htTextIn := rfl
@[simp] theorem State.enterAt_htTextOut (ph : Phase) (k : Nat) :
    (s.enterAt ph k).htTextOut = s.htTextOut := rfl
@[simp] theorem State.enterAt_pm (ph : Phase) (k : Nat) : (s.enterAt ph k).pm = s.pm := rfl
@[simp] theorem State.enterAt_resetEpoch (ph : Phase) (k : Nat) :
    (s.enterAt ph k).resetEpoch = s.resetEpoch := rfl
@[simp] theorem State.enterAt_inReset (ph : Phase) (k : Nat) :
    (s.enterAt ph k).inReset = s.inReset := rfl
@[simp] theorem State.enterAt_inputs (ph : Phase) (k : Nat) :
    (s.enterAt ph k).inputs = s.inputs := rfl
@[simp] theorem State.enterAt_readData (ph : Phase) (k : Nat) :
    (s.enterAt ph k).readData = s.readData := rfl

/-! ### `completeWith` -/

@[simp] theorem State.completeWith_cfg (e : ErrCode) : (s.completeWith e).cfg = s.cfg := rfl
@[simp] theorem State.completeWith_ie (e : ErrCode) : (s.completeWith e).ie = s.ie := rfl
@[simp] theorem State.completeWith_minScore (e : ErrCode) :
    (s.completeWith e).minScore = s.minScore := rfl
@[simp] theorem State.completeWith_maxCand (e : ErrCode) :
    (s.completeWith e).maxCand = s.maxCand := rfl
@[simp] theorem State.completeWith_maxIter (e : ErrCode) :
    (s.completeWith e).maxIter = s.maxIter := rfl
@[simp] theorem State.completeWith_syncMap (e : ErrCode) :
    (s.completeWith e).syncMap = s.syncMap := rfl
@[simp] theorem State.completeWith_grayMap (e : ErrCode) :
    (s.completeWith e).grayMap = s.grayMap := rfl
@[simp] theorem State.completeWith_baseBin (e : ErrCode) :
    (s.completeWith e).baseBin = s.baseBin := rfl
@[simp] theorem State.completeWith_slotSeq (e : ErrCode) :
    (s.completeWith e).slotSeq = s.slotSeq := rfl
@[simp] theorem State.completeWith_timestamp (e : ErrCode) :
    (s.completeWith e).timestamp = s.timestamp := rfl
@[simp] theorem State.completeWith_running (e : ErrCode) : (s.completeWith e).running = none := rfl
@[simp] theorem State.completeWith_done (e : ErrCode) : (s.completeWith e).done = true := rfl
@[simp] theorem State.completeWith_err (e : ErrCode) : (s.completeWith e).err = e := rfl
@[simp] theorem State.completeWith_cmdDropped (e : ErrCode) :
    (s.completeWith e).cmdDropped = s.cmdDropped := rfl
@[simp] theorem State.completeWith_busyAcc (e : ErrCode) :
    (s.completeWith e).busyAcc = s.busyAcc := rfl
@[simp] theorem State.completeWith_badAcc (e : ErrCode) :
    (s.completeWith e).badAcc = s.badAcc := rfl
@[simp] theorem State.completeWith_lastOp (e : ErrCode) :
    (s.completeWith e).lastOp = s.lastOp := rfl
@[simp] theorem State.completeWith_valid (e : ErrCode) : (s.completeWith e).valid = s.valid := rfl
@[simp] theorem State.completeWith_phase (e : ErrCode) : (s.completeWith e).phase = .idle := rfl
@[simp] theorem State.completeWith_candIdx (e : ErrCode) :
    (s.completeWith e).candIdx = s.candIdx := rfl
@[simp] theorem State.completeWith_curCand (e : ErrCode) :
    (s.completeWith e).curCand = s.curCand := rfl
@[simp] theorem State.completeWith_candCount (e : ErrCode) :
    (s.completeWith e).candCount = s.candCount := rfl
@[simp] theorem State.completeWith_cl (e : ErrCode) : (s.completeWith e).cl = s.cl := rfl
@[simp] theorem State.completeWith_disp (e : ErrCode) : (s.completeWith e).disp = s.disp := rfl
@[simp] theorem State.completeWith_llr (e : ErrCode) : (s.completeWith e).llr = s.llr := rfl
@[simp] theorem State.completeWith_hard (e : ErrCode) : (s.completeWith e).hard = s.hard := rfl
@[simp] theorem State.completeWith_a91 (e : ErrCode) : (s.completeWith e).a91 = s.a91 := rfl
@[simp] theorem State.completeWith_msg (e : ErrCode) : (s.completeWith e).msg = s.msg := rfl
@[simp] theorem State.completeWith_ldpcErrors (e : ErrCode) :
    (s.completeWith e).ldpcErrors = s.ldpcErrors := rfl
@[simp] theorem State.completeWith_ldpcIter (e : ErrCode) :
    (s.completeWith e).ldpcIter = s.ldpcIter := rfl
@[simp] theorem State.completeWith_crcRx (e : ErrCode) : (s.completeWith e).crcRx = s.crcRx := rfl
@[simp] theorem State.completeWith_crcCalc (e : ErrCode) :
    (s.completeWith e).crcCalc = s.crcCalc := rfl
@[simp] theorem State.completeWith_crcOk (e : ErrCode) : (s.completeWith e).crcOk = s.crcOk := rfl
@[simp] theorem State.completeWith_ufail (e : ErrCode) : (s.completeWith e).ufail = s.ufail := rfl
@[simp] theorem State.completeWith_i3 (e : ErrCode) : (s.completeWith e).i3 = s.i3 := rfl
@[simp] theorem State.completeWith_n3 (e : ErrCode) : (s.completeWith e).n3 = s.n3 := rfl
@[simp] theorem State.completeWith_res (e : ErrCode) : (s.completeWith e).res = s.res := rfl
@[simp] theorem State.completeWith_ht (e : ErrCode) : (s.completeWith e).ht = s.ht := rfl
@[simp] theorem State.completeWith_htKeyIn (e : ErrCode) :
    (s.completeWith e).htKeyIn = s.htKeyIn := rfl
@[simp] theorem State.completeWith_htKeyOut (e : ErrCode) :
    (s.completeWith e).htKeyOut = s.htKeyOut := rfl
@[simp] theorem State.completeWith_htLenIn (e : ErrCode) :
    (s.completeWith e).htLenIn = s.htLenIn := rfl
@[simp] theorem State.completeWith_htTextIn (e : ErrCode) :
    (s.completeWith e).htTextIn = s.htTextIn := rfl
@[simp] theorem State.completeWith_htTextOut (e : ErrCode) :
    (s.completeWith e).htTextOut = s.htTextOut := rfl
@[simp] theorem State.completeWith_pm (e : ErrCode) : (s.completeWith e).pm = s.pm := rfl
@[simp] theorem State.completeWith_resetEpoch (e : ErrCode) :
    (s.completeWith e).resetEpoch = s.resetEpoch := rfl
@[simp] theorem State.completeWith_inReset (e : ErrCode) :
    (s.completeWith e).inReset = s.inReset := rfl
@[simp] theorem State.completeWith_inputs (e : ErrCode) :
    (s.completeWith e).inputs = s.inputs := rfl
@[simp] theorem State.completeWith_readData (e : ErrCode) :
    (s.completeWith e).readData = s.readData := rfl

/-! ### `setDisp` -/

@[simp] theorem State.setDisp_cfg (i : Nat) (d : Disposition) : (s.setDisp i d).cfg = s.cfg := rfl
@[simp] theorem State.setDisp_ie (i : Nat) (d : Disposition) : (s.setDisp i d).ie = s.ie := rfl
@[simp] theorem State.setDisp_minScore (i : Nat) (d : Disposition) :
    (s.setDisp i d).minScore = s.minScore := rfl
@[simp] theorem State.setDisp_maxCand (i : Nat) (d : Disposition) :
    (s.setDisp i d).maxCand = s.maxCand := rfl
@[simp] theorem State.setDisp_maxIter (i : Nat) (d : Disposition) :
    (s.setDisp i d).maxIter = s.maxIter := rfl
@[simp] theorem State.setDisp_syncMap (i : Nat) (d : Disposition) :
    (s.setDisp i d).syncMap = s.syncMap := rfl
@[simp] theorem State.setDisp_grayMap (i : Nat) (d : Disposition) :
    (s.setDisp i d).grayMap = s.grayMap := rfl
@[simp] theorem State.setDisp_baseBin (i : Nat) (d : Disposition) :
    (s.setDisp i d).baseBin = s.baseBin := rfl
@[simp] theorem State.setDisp_slotSeq (i : Nat) (d : Disposition) :
    (s.setDisp i d).slotSeq = s.slotSeq := rfl
@[simp] theorem State.setDisp_timestamp (i : Nat) (d : Disposition) :
    (s.setDisp i d).timestamp = s.timestamp := rfl
@[simp] theorem State.setDisp_running (i : Nat) (d : Disposition) :
    (s.setDisp i d).running = s.running := rfl
@[simp] theorem State.setDisp_done (i : Nat) (d : Disposition) :
    (s.setDisp i d).done = s.done := rfl
@[simp] theorem State.setDisp_err (i : Nat) (d : Disposition) : (s.setDisp i d).err = s.err := rfl
@[simp] theorem State.setDisp_cmdDropped (i : Nat) (d : Disposition) :
    (s.setDisp i d).cmdDropped = s.cmdDropped := rfl
@[simp] theorem State.setDisp_busyAcc (i : Nat) (d : Disposition) :
    (s.setDisp i d).busyAcc = s.busyAcc := rfl
@[simp] theorem State.setDisp_badAcc (i : Nat) (d : Disposition) :
    (s.setDisp i d).badAcc = s.badAcc := rfl
@[simp] theorem State.setDisp_lastOp (i : Nat) (d : Disposition) :
    (s.setDisp i d).lastOp = s.lastOp := rfl
@[simp] theorem State.setDisp_valid (i : Nat) (d : Disposition) :
    (s.setDisp i d).valid = s.valid := rfl
@[simp] theorem State.setDisp_phase (i : Nat) (d : Disposition) :
    (s.setDisp i d).phase = s.phase := rfl
@[simp] theorem State.setDisp_candIdx (i : Nat) (d : Disposition) :
    (s.setDisp i d).candIdx = s.candIdx := rfl
@[simp] theorem State.setDisp_curCand (i : Nat) (d : Disposition) :
    (s.setDisp i d).curCand = s.curCand := rfl
@[simp] theorem State.setDisp_candCount (i : Nat) (d : Disposition) :
    (s.setDisp i d).candCount = s.candCount := rfl
@[simp] theorem State.setDisp_cl (i : Nat) (d : Disposition) : (s.setDisp i d).cl = s.cl := rfl
@[simp] theorem State.setDisp_disp (i : Nat) (d : Disposition) :
    (s.setDisp i d).disp = s.disp.set i d := rfl
@[simp] theorem State.setDisp_llr (i : Nat) (d : Disposition) : (s.setDisp i d).llr = s.llr := rfl
@[simp] theorem State.setDisp_hard (i : Nat) (d : Disposition) :
    (s.setDisp i d).hard = s.hard := rfl
@[simp] theorem State.setDisp_a91 (i : Nat) (d : Disposition) : (s.setDisp i d).a91 = s.a91 := rfl
@[simp] theorem State.setDisp_msg (i : Nat) (d : Disposition) : (s.setDisp i d).msg = s.msg := rfl
@[simp] theorem State.setDisp_ldpcErrors (i : Nat) (d : Disposition) :
    (s.setDisp i d).ldpcErrors = s.ldpcErrors := rfl
@[simp] theorem State.setDisp_ldpcIter (i : Nat) (d : Disposition) :
    (s.setDisp i d).ldpcIter = s.ldpcIter := rfl
@[simp] theorem State.setDisp_crcRx (i : Nat) (d : Disposition) :
    (s.setDisp i d).crcRx = s.crcRx := rfl
@[simp] theorem State.setDisp_crcCalc (i : Nat) (d : Disposition) :
    (s.setDisp i d).crcCalc = s.crcCalc := rfl
@[simp] theorem State.setDisp_crcOk (i : Nat) (d : Disposition) :
    (s.setDisp i d).crcOk = s.crcOk := rfl
@[simp] theorem State.setDisp_ufail (i : Nat) (d : Disposition) :
    (s.setDisp i d).ufail = s.ufail := rfl
@[simp] theorem State.setDisp_i3 (i : Nat) (d : Disposition) : (s.setDisp i d).i3 = s.i3 := rfl
@[simp] theorem State.setDisp_n3 (i : Nat) (d : Disposition) : (s.setDisp i d).n3 = s.n3 := rfl
@[simp] theorem State.setDisp_res (i : Nat) (d : Disposition) : (s.setDisp i d).res = s.res := rfl
@[simp] theorem State.setDisp_ht (i : Nat) (d : Disposition) : (s.setDisp i d).ht = s.ht := rfl
@[simp] theorem State.setDisp_htKeyIn (i : Nat) (d : Disposition) :
    (s.setDisp i d).htKeyIn = s.htKeyIn := rfl
@[simp] theorem State.setDisp_htKeyOut (i : Nat) (d : Disposition) :
    (s.setDisp i d).htKeyOut = s.htKeyOut := rfl
@[simp] theorem State.setDisp_htLenIn (i : Nat) (d : Disposition) :
    (s.setDisp i d).htLenIn = s.htLenIn := rfl
@[simp] theorem State.setDisp_htTextIn (i : Nat) (d : Disposition) :
    (s.setDisp i d).htTextIn = s.htTextIn := rfl
@[simp] theorem State.setDisp_htTextOut (i : Nat) (d : Disposition) :
    (s.setDisp i d).htTextOut = s.htTextOut := rfl
@[simp] theorem State.setDisp_pm (i : Nat) (d : Disposition) : (s.setDisp i d).pm = s.pm := rfl
@[simp] theorem State.setDisp_resetEpoch (i : Nat) (d : Disposition) :
    (s.setDisp i d).resetEpoch = s.resetEpoch := rfl
@[simp] theorem State.setDisp_inReset (i : Nat) (d : Disposition) :
    (s.setDisp i d).inReset = s.inReset := rfl
@[simp] theorem State.setDisp_inputs (i : Nat) (d : Disposition) :
    (s.setDisp i d).inputs = s.inputs := rfl
@[simp] theorem State.setDisp_readData (i : Nat) (d : Disposition) :
    (s.setDisp i d).readData = s.readData := rfl

/-! ### `refuseAccess` -/

@[simp] theorem State.refuseAccess_cfg (b₁ b₂ b₃ : Bool) :
    (s.refuseAccess b₁ b₂ b₃).cfg = s.cfg := rfl
@[simp] theorem State.refuseAccess_ie (b₁ b₂ b₃ : Bool) : (s.refuseAccess b₁ b₂ b₃).ie = s.ie := rfl
@[simp] theorem State.refuseAccess_minScore (b₁ b₂ b₃ : Bool) :
    (s.refuseAccess b₁ b₂ b₃).minScore = s.minScore := rfl
@[simp] theorem State.refuseAccess_maxCand (b₁ b₂ b₃ : Bool) :
    (s.refuseAccess b₁ b₂ b₃).maxCand = s.maxCand := rfl
@[simp] theorem State.refuseAccess_maxIter (b₁ b₂ b₃ : Bool) :
    (s.refuseAccess b₁ b₂ b₃).maxIter = s.maxIter := rfl
@[simp] theorem State.refuseAccess_syncMap (b₁ b₂ b₃ : Bool) :
    (s.refuseAccess b₁ b₂ b₃).syncMap = s.syncMap := rfl
@[simp] theorem State.refuseAccess_grayMap (b₁ b₂ b₃ : Bool) :
    (s.refuseAccess b₁ b₂ b₃).grayMap = s.grayMap := rfl
@[simp] theorem State.refuseAccess_baseBin (b₁ b₂ b₃ : Bool) :
    (s.refuseAccess b₁ b₂ b₃).baseBin = s.baseBin := rfl
@[simp] theorem State.refuseAccess_slotSeq (b₁ b₂ b₃ : Bool) :
    (s.refuseAccess b₁ b₂ b₃).slotSeq = s.slotSeq := rfl
@[simp] theorem State.refuseAccess_timestamp (b₁ b₂ b₃ : Bool) :
    (s.refuseAccess b₁ b₂ b₃).timestamp = s.timestamp := rfl
@[simp] theorem State.refuseAccess_running (b₁ b₂ b₃ : Bool) :
    (s.refuseAccess b₁ b₂ b₃).running = s.running := rfl
@[simp] theorem State.refuseAccess_done (b₁ b₂ b₃ : Bool) :
    (s.refuseAccess b₁ b₂ b₃).done = s.done := rfl
@[simp] theorem State.refuseAccess_err (b₁ b₂ b₃ : Bool) :
    (s.refuseAccess b₁ b₂ b₃).err = s.err := rfl
@[simp] theorem State.refuseAccess_cmdDropped (b₁ b₂ b₃ : Bool) :
    (s.refuseAccess b₁ b₂ b₃).cmdDropped = (s.cmdDropped || b₃) := rfl
@[simp] theorem State.refuseAccess_busyAcc (b₁ b₂ b₃ : Bool) :
    (s.refuseAccess b₁ b₂ b₃).busyAcc = (s.busyAcc || b₁) := rfl
@[simp] theorem State.refuseAccess_badAcc (b₁ b₂ b₃ : Bool) :
    (s.refuseAccess b₁ b₂ b₃).badAcc = (s.badAcc || b₂) := rfl
@[simp] theorem State.refuseAccess_lastOp (b₁ b₂ b₃ : Bool) :
    (s.refuseAccess b₁ b₂ b₃).lastOp = s.lastOp := rfl
@[simp] theorem State.refuseAccess_valid (b₁ b₂ b₃ : Bool) :
    (s.refuseAccess b₁ b₂ b₃).valid = s.valid := rfl
@[simp] theorem State.refuseAccess_phase (b₁ b₂ b₃ : Bool) :
    (s.refuseAccess b₁ b₂ b₃).phase = s.phase := rfl
@[simp] theorem State.refuseAccess_candIdx (b₁ b₂ b₃ : Bool) :
    (s.refuseAccess b₁ b₂ b₃).candIdx = s.candIdx := rfl
@[simp] theorem State.refuseAccess_curCand (b₁ b₂ b₃ : Bool) :
    (s.refuseAccess b₁ b₂ b₃).curCand = s.curCand := rfl
@[simp] theorem State.refuseAccess_candCount (b₁ b₂ b₃ : Bool) :
    (s.refuseAccess b₁ b₂ b₃).candCount = s.candCount := rfl
@[simp] theorem State.refuseAccess_cl (b₁ b₂ b₃ : Bool) : (s.refuseAccess b₁ b₂ b₃).cl = s.cl := rfl
@[simp] theorem State.refuseAccess_disp (b₁ b₂ b₃ : Bool) :
    (s.refuseAccess b₁ b₂ b₃).disp = s.disp := rfl
@[simp] theorem State.refuseAccess_llr (b₁ b₂ b₃ : Bool) :
    (s.refuseAccess b₁ b₂ b₃).llr = s.llr := rfl
@[simp] theorem State.refuseAccess_hard (b₁ b₂ b₃ : Bool) :
    (s.refuseAccess b₁ b₂ b₃).hard = s.hard := rfl
@[simp] theorem State.refuseAccess_a91 (b₁ b₂ b₃ : Bool) :
    (s.refuseAccess b₁ b₂ b₃).a91 = s.a91 := rfl
@[simp] theorem State.refuseAccess_msg (b₁ b₂ b₃ : Bool) :
    (s.refuseAccess b₁ b₂ b₃).msg = s.msg := rfl
@[simp] theorem State.refuseAccess_ldpcErrors (b₁ b₂ b₃ : Bool) :
    (s.refuseAccess b₁ b₂ b₃).ldpcErrors = s.ldpcErrors := rfl
@[simp] theorem State.refuseAccess_ldpcIter (b₁ b₂ b₃ : Bool) :
    (s.refuseAccess b₁ b₂ b₃).ldpcIter = s.ldpcIter := rfl
@[simp] theorem State.refuseAccess_crcRx (b₁ b₂ b₃ : Bool) :
    (s.refuseAccess b₁ b₂ b₃).crcRx = s.crcRx := rfl
@[simp] theorem State.refuseAccess_crcCalc (b₁ b₂ b₃ : Bool) :
    (s.refuseAccess b₁ b₂ b₃).crcCalc = s.crcCalc := rfl
@[simp] theorem State.refuseAccess_crcOk (b₁ b₂ b₃ : Bool) :
    (s.refuseAccess b₁ b₂ b₃).crcOk = s.crcOk := rfl
@[simp] theorem State.refuseAccess_ufail (b₁ b₂ b₃ : Bool) :
    (s.refuseAccess b₁ b₂ b₃).ufail = s.ufail := rfl
@[simp] theorem State.refuseAccess_i3 (b₁ b₂ b₃ : Bool) : (s.refuseAccess b₁ b₂ b₃).i3 = s.i3 := rfl
@[simp] theorem State.refuseAccess_n3 (b₁ b₂ b₃ : Bool) : (s.refuseAccess b₁ b₂ b₃).n3 = s.n3 := rfl
@[simp] theorem State.refuseAccess_res (b₁ b₂ b₃ : Bool) :
    (s.refuseAccess b₁ b₂ b₃).res = s.res := rfl
@[simp] theorem State.refuseAccess_ht (b₁ b₂ b₃ : Bool) : (s.refuseAccess b₁ b₂ b₃).ht = s.ht := rfl
@[simp] theorem State.refuseAccess_htKeyIn (b₁ b₂ b₃ : Bool) :
    (s.refuseAccess b₁ b₂ b₃).htKeyIn = s.htKeyIn := rfl
@[simp] theorem State.refuseAccess_htKeyOut (b₁ b₂ b₃ : Bool) :
    (s.refuseAccess b₁ b₂ b₃).htKeyOut = s.htKeyOut := rfl
@[simp] theorem State.refuseAccess_htLenIn (b₁ b₂ b₃ : Bool) :
    (s.refuseAccess b₁ b₂ b₃).htLenIn = s.htLenIn := rfl
@[simp] theorem State.refuseAccess_htTextIn (b₁ b₂ b₃ : Bool) :
    (s.refuseAccess b₁ b₂ b₃).htTextIn = s.htTextIn := rfl
@[simp] theorem State.refuseAccess_htTextOut (b₁ b₂ b₃ : Bool) :
    (s.refuseAccess b₁ b₂ b₃).htTextOut = s.htTextOut := rfl
@[simp] theorem State.refuseAccess_pm (b₁ b₂ b₃ : Bool) : (s.refuseAccess b₁ b₂ b₃).pm = s.pm := rfl
@[simp] theorem State.refuseAccess_resetEpoch (b₁ b₂ b₃ : Bool) :
    (s.refuseAccess b₁ b₂ b₃).resetEpoch = s.resetEpoch := rfl
@[simp] theorem State.refuseAccess_inReset (b₁ b₂ b₃ : Bool) :
    (s.refuseAccess b₁ b₂ b₃).inReset = s.inReset := rfl
@[simp] theorem State.refuseAccess_inputs (b₁ b₂ b₃ : Bool) :
    (s.refuseAccess b₁ b₂ b₃).inputs = s.inputs := rfl
@[simp] theorem State.refuseAccess_readData (b₁ b₂ b₃ : Bool) :
    (s.refuseAccess b₁ b₂ b₃).readData = s.readData := rfl

/-! ### `writeStatus` -/

@[simp] theorem State.writeStatus_cfg (v : Word) : (s.writeStatus v).cfg = s.cfg := rfl
@[simp] theorem State.writeStatus_ie (v : Word) : (s.writeStatus v).ie = s.ie := rfl
@[simp] theorem State.writeStatus_minScore (v : Word) :
    (s.writeStatus v).minScore = s.minScore := rfl
@[simp] theorem State.writeStatus_maxCand (v : Word) : (s.writeStatus v).maxCand = s.maxCand := rfl
@[simp] theorem State.writeStatus_maxIter (v : Word) : (s.writeStatus v).maxIter = s.maxIter := rfl
@[simp] theorem State.writeStatus_syncMap (v : Word) : (s.writeStatus v).syncMap = s.syncMap := rfl
@[simp] theorem State.writeStatus_grayMap (v : Word) : (s.writeStatus v).grayMap = s.grayMap := rfl
@[simp] theorem State.writeStatus_baseBin (v : Word) : (s.writeStatus v).baseBin = s.baseBin := rfl
@[simp] theorem State.writeStatus_slotSeq (v : Word) : (s.writeStatus v).slotSeq = s.slotSeq := rfl
@[simp] theorem State.writeStatus_timestamp (v : Word) :
    (s.writeStatus v).timestamp = s.timestamp := rfl
@[simp] theorem State.writeStatus_running (v : Word) : (s.writeStatus v).running = s.running := rfl
@[simp] theorem State.writeStatus_done (v : Word) :
    (s.writeStatus v).done = (s.done && !v.getLsbD 1) := rfl
@[simp] theorem State.writeStatus_err (v : Word) : (s.writeStatus v).err = s.err := rfl
@[simp] theorem State.writeStatus_cmdDropped (v : Word) :
    (s.writeStatus v).cmdDropped = (s.cmdDropped && !v.getLsbD 8) := rfl
@[simp] theorem State.writeStatus_busyAcc (v : Word) :
    (s.writeStatus v).busyAcc = (s.busyAcc && !v.getLsbD 9) := rfl
@[simp] theorem State.writeStatus_badAcc (v : Word) :
    (s.writeStatus v).badAcc = (s.badAcc && !v.getLsbD 10) := rfl
@[simp] theorem State.writeStatus_lastOp (v : Word) : (s.writeStatus v).lastOp = s.lastOp := rfl
@[simp] theorem State.writeStatus_valid (v : Word) : (s.writeStatus v).valid = s.valid := rfl
@[simp] theorem State.writeStatus_phase (v : Word) : (s.writeStatus v).phase = s.phase := rfl
@[simp] theorem State.writeStatus_candIdx (v : Word) : (s.writeStatus v).candIdx = s.candIdx := rfl
@[simp] theorem State.writeStatus_curCand (v : Word) : (s.writeStatus v).curCand = s.curCand := rfl
@[simp] theorem State.writeStatus_candCount (v : Word) :
    (s.writeStatus v).candCount = s.candCount := rfl
@[simp] theorem State.writeStatus_cl (v : Word) : (s.writeStatus v).cl = s.cl := rfl
@[simp] theorem State.writeStatus_disp (v : Word) : (s.writeStatus v).disp = s.disp := rfl
@[simp] theorem State.writeStatus_llr (v : Word) : (s.writeStatus v).llr = s.llr := rfl
@[simp] theorem State.writeStatus_hard (v : Word) : (s.writeStatus v).hard = s.hard := rfl
@[simp] theorem State.writeStatus_a91 (v : Word) : (s.writeStatus v).a91 = s.a91 := rfl
@[simp] theorem State.writeStatus_msg (v : Word) : (s.writeStatus v).msg = s.msg := rfl
@[simp] theorem State.writeStatus_ldpcErrors (v : Word) :
    (s.writeStatus v).ldpcErrors = s.ldpcErrors := rfl
@[simp] theorem State.writeStatus_ldpcIter (v : Word) :
    (s.writeStatus v).ldpcIter = s.ldpcIter := rfl
@[simp] theorem State.writeStatus_crcRx (v : Word) : (s.writeStatus v).crcRx = s.crcRx := rfl
@[simp] theorem State.writeStatus_crcCalc (v : Word) : (s.writeStatus v).crcCalc = s.crcCalc := rfl
@[simp] theorem State.writeStatus_crcOk (v : Word) : (s.writeStatus v).crcOk = s.crcOk := rfl
@[simp] theorem State.writeStatus_ufail (v : Word) : (s.writeStatus v).ufail = s.ufail := rfl
@[simp] theorem State.writeStatus_i3 (v : Word) : (s.writeStatus v).i3 = s.i3 := rfl
@[simp] theorem State.writeStatus_n3 (v : Word) : (s.writeStatus v).n3 = s.n3 := rfl
@[simp] theorem State.writeStatus_res (v : Word) : (s.writeStatus v).res = s.res := rfl
@[simp] theorem State.writeStatus_ht (v : Word) : (s.writeStatus v).ht = s.ht := rfl
@[simp] theorem State.writeStatus_htKeyIn (v : Word) : (s.writeStatus v).htKeyIn = s.htKeyIn := rfl
@[simp] theorem State.writeStatus_htKeyOut (v : Word) :
    (s.writeStatus v).htKeyOut = s.htKeyOut := rfl
@[simp] theorem State.writeStatus_htLenIn (v : Word) : (s.writeStatus v).htLenIn = s.htLenIn := rfl
@[simp] theorem State.writeStatus_htTextIn (v : Word) :
    (s.writeStatus v).htTextIn = s.htTextIn := rfl
@[simp] theorem State.writeStatus_htTextOut (v : Word) :
    (s.writeStatus v).htTextOut = s.htTextOut := rfl
@[simp] theorem State.writeStatus_pm (v : Word) : (s.writeStatus v).pm = s.pm := rfl
@[simp] theorem State.writeStatus_resetEpoch (v : Word) :
    (s.writeStatus v).resetEpoch = s.resetEpoch := rfl
@[simp] theorem State.writeStatus_inReset (v : Word) : (s.writeStatus v).inReset = s.inReset := rfl
@[simp] theorem State.writeStatus_inputs (v : Word) : (s.writeStatus v).inputs = s.inputs := rfl
@[simp] theorem State.writeStatus_readData (v : Word) :
    (s.writeStatus v).readData = s.readData := rfl

/-! ### `resetWith` -/

variable (p : Config.Params)

@[simp] theorem State.resetWith_cfg : (State.resetWith p).cfg = p := rfl
@[simp] theorem State.resetWith_ie : (State.resetWith p).ie = false := rfl
@[simp] theorem State.resetWith_minScore : (State.resetWith p).minScore = 40 := rfl
@[simp] theorem State.resetWith_maxCand : (State.resetWith p).maxCand = BitVec.ofNat 7 p.candCap := rfl
@[simp] theorem State.resetWith_maxIter : (State.resetWith p).maxIter = 10 := rfl
@[simp] theorem State.resetWith_syncMap : (State.resetWith p).syncMap = 0x0AE10B := rfl
@[simp] theorem State.resetWith_grayMap : (State.resetWith p).grayMap = 0xF354C8 := rfl
@[simp] theorem State.resetWith_baseBin : (State.resetWith p).baseBin = 0 := rfl
@[simp] theorem State.resetWith_slotSeq : (State.resetWith p).slotSeq = 0 := rfl
@[simp] theorem State.resetWith_timestamp : (State.resetWith p).timestamp = 0 := rfl
@[simp] theorem State.resetWith_running : (State.resetWith p).running = none := rfl
@[simp] theorem State.resetWith_done : (State.resetWith p).done = false := rfl
@[simp] theorem State.resetWith_err : (State.resetWith p).err = .ok := rfl
@[simp] theorem State.resetWith_cmdDropped : (State.resetWith p).cmdDropped = false := rfl
@[simp] theorem State.resetWith_busyAcc : (State.resetWith p).busyAcc = false := rfl
@[simp] theorem State.resetWith_badAcc : (State.resetWith p).badAcc = false := rfl
@[simp] theorem State.resetWith_lastOp : (State.resetWith p).lastOp = 0 := rfl
@[simp] theorem State.resetWith_valid : (State.resetWith p).valid = Valid.clear := rfl
@[simp] theorem State.resetWith_phase : (State.resetWith p).phase = .idle := rfl
@[simp] theorem State.resetWith_candIdx : (State.resetWith p).candIdx = 0 := rfl
@[simp] theorem State.resetWith_curCand : (State.resetWith p).curCand = 0 := rfl
@[simp] theorem State.resetWith_candCount : (State.resetWith p).candCount = 0 := rfl
@[simp] theorem State.resetWith_cl : (State.resetWith p).cl = List.replicate p.candCap Candidate.zero := rfl
@[simp] theorem State.resetWith_disp : (State.resetWith p).disp = List.replicate p.candCap .none := rfl
@[simp] theorem State.resetWith_llr : (State.resetWith p).llr = List.replicate 174 0 := rfl
@[simp] theorem State.resetWith_hard : (State.resetWith p).hard = 0 := rfl
@[simp] theorem State.resetWith_a91 : (State.resetWith p).a91 = 0 := rfl
@[simp] theorem State.resetWith_msg : (State.resetWith p).msg = Msg.zero := rfl
@[simp] theorem State.resetWith_ldpcErrors : (State.resetWith p).ldpcErrors = 0 := rfl
@[simp] theorem State.resetWith_ldpcIter : (State.resetWith p).ldpcIter = 0 := rfl
@[simp] theorem State.resetWith_crcRx : (State.resetWith p).crcRx = 0 := rfl
@[simp] theorem State.resetWith_crcCalc : (State.resetWith p).crcCalc = 0 := rfl
@[simp] theorem State.resetWith_crcOk : (State.resetWith p).crcOk = false := rfl
@[simp] theorem State.resetWith_ufail : (State.resetWith p).ufail = .none := rfl
@[simp] theorem State.resetWith_i3 : (State.resetWith p).i3 = 0 := rfl
@[simp] theorem State.resetWith_n3 : (State.resetWith p).n3 = 0 := rfl
@[simp] theorem State.resetWith_res : (State.resetWith p).res = [] := rfl
@[simp] theorem State.resetWith_ht : (State.resetWith p).ht = [] := rfl
@[simp] theorem State.resetWith_htKeyIn : (State.resetWith p).htKeyIn = 0 := rfl
@[simp] theorem State.resetWith_htKeyOut : (State.resetWith p).htKeyOut = 0 := rfl
@[simp] theorem State.resetWith_htLenIn : (State.resetWith p).htLenIn = 0 := rfl
@[simp] theorem State.resetWith_htTextIn : (State.resetWith p).htTextIn = List.replicate 16 0 := rfl
@[simp] theorem State.resetWith_htTextOut : (State.resetWith p).htTextOut = [] := rfl
@[simp] theorem State.resetWith_pm : (State.resetWith p).pm = [] := rfl
@[simp] theorem State.resetWith_resetEpoch : (State.resetWith p).resetEpoch = 0 := rfl
@[simp] theorem State.resetWith_inReset : (State.resetWith p).inReset = false := rfl
@[simp] theorem State.resetWith_inputs : (State.resetWith p).inputs = [] := rfl
@[simp] theorem State.resetWith_readData : (State.resetWith p).readData = 0 := rfl

end Sys2Proof.Machine
end

