-- ==== Sys2Proof/Laws/Data.lean ====
section
/-! SUPPORT. Laws of the data operations: bit strings, digits, texts, clamping. -/

namespace Sys2Proof.Machine

open Sys2Proof

/-! ### Bit strings -/

/-- A field of a bit string fits its width (R10). -/
theorem bitField_lt {n : Nat} (x : BitVec n) (a b : Nat) : bitField x a b < 2 ^ (b - a + 1) :=
  Nat.mod_lt _ (by positivity)

theorem foldl_bits_append (acc : Nat) (bs : List Bool) :
    bs.foldl (fun a b => 2 * a + b.toNat) acc =
      acc * 2 ^ bs.length + bs.foldl (fun a b => 2 * a + b.toNat) 0 := by
  induction bs generalizing acc with
  | nil => simp
  | cons b bs ih =>
    simp only [List.foldl_cons, List.length_cons]
    rw [ih, ih (2 * 0 + b.toNat)]
    ring

theorem foldl_bits_lt (bs : List Bool) :
    bs.foldl (fun a b => 2 * a + b.toNat) 0 < 2 ^ bs.length := by
  induction bs with
  | nil => simp
  | cons b bs ih =>
    simp only [List.foldl_cons, List.length_cons]
    rw [foldl_bits_append]
    cases b <;> simp [pow_succ] <;> omega

theorem testBit_foldl_bits (bs : List Bool) (i : Nat) :
    (bs.foldl (fun (a : Nat) (b : Bool) => 2 * a + b.toNat) 0).testBit i =
      (decide (i < bs.length) && bs.getD (bs.length - 1 - i) false) := by
  induction bs generalizing i with
  | nil => simp
  | cons b bs ih =>
    simp only [List.foldl_cons, List.length_cons]
    rw [foldl_bits_append, mul_comm, Nat.testBit_two_pow_mul_add _ (foldl_bits_lt bs)]
    split
    · rename_i h
      rw [ih, show bs.length + 1 - 1 - i = (bs.length - 1 - i) + 1 by omega, List.getD_cons_succ]
      simp [h, show i < bs.length + 1 by omega]
    · rename_i h
      by_cases he : i = bs.length
      · subst he
        cases b <;> simp
      · have h1 : i - bs.length = (i - bs.length - 1) + 1 := by omega
        rw [h1, Nat.testBit_succ]
        cases b <;> simp [show ¬ i < bs.length + 1 by omega]

/-- Bit `i` of a packed list is entry `i` of the list (R10). -/
theorem getMsbD_packBits {n : Nat} {bs : List Bool} (h : bs.length = n) (i : Nat) :
    (packBits n bs).getMsbD i = bs.getD i false := by
  subst h
  rw [packBits, BitVec.getMsbD, BitVec.getLsbD_ofNat, testBit_foldl_bits]
  by_cases hi : i < bs.length
  · have h1 : bs.length - 1 - i < bs.length := by omega
    have h2 : bs.length - 1 - (bs.length - 1 - i) = i := by omega
    simp [hi, h1, h2]
  · simp [hi]

/-- Two bit strings with the same bits are equal. -/
theorem eq_of_getMsbD {n : Nat} {x y : BitVec n} (h : ∀ i < n, x.getMsbD i = y.getMsbD i) : x = y := by
  apply BitVec.eq_of_getMsbD_eq
  intro i hi
  exact h i hi

/-! ### Digits -/

@[simp] theorem length_digits (base count v : Nat) : (digits base count v).length = count := by
  induction count generalizing v with
  | zero => rfl
  | succ k ih => simp [digits, ih]

theorem digits_lt {base : Nat} (hb : 0 < base) (count v : Nat) : ∀ d ∈ digits base count v, d < base := by
  induction count generalizing v with
  | zero => simp [digits]
  | succ k ih =>
    intro d hd
    rw [digits, List.mem_append, List.mem_singleton] at hd
    rcases hd with hd | rfl
    · exact ih _ d hd
    · exact Nat.mod_lt _ hb

/-- The digits of a number written with given digits are those digits. -/
theorem digits_foldl {base : Nat} (ds : List Nat) (h : ∀ d ∈ ds, d < base) :
    digits base ds.length (ds.foldl (fun n d => base * n + d) 0) = ds := by
  induction ds using List.reverseRecOn with
  | nil => rfl
  | append_singleton ds d ih =>
    have hd : d < base := h d (by simp)
    have hb : 0 < base := by omega
    rw [List.foldl_append, List.length_append]
    simp only [List.length_singleton, List.foldl_cons, List.foldl_nil, digits]
    rw [Nat.mul_add_div hb, Nat.div_eq_of_lt hd, Nat.add_zero, ih fun x hx => h x (by simp [hx]),
      Nat.mul_add_mod, Nat.mod_eq_of_lt hd]

/-- A number written with `k` digits is below `base ^ k`. -/
theorem foldl_digits_lt {base : Nat} (ds : List Nat) (h : ∀ d ∈ ds, d < base) :
    ds.foldl (fun n d => base * n + d) 0 < base ^ ds.length := by
  induction ds using List.reverseRecOn with
  | nil => simp
  | append_singleton ds d ih =>
    have hd : d < base := h d (by simp)
    have h1 := ih fun x hx => h x (by simp [hx])
    rw [List.foldl_append, List.length_append]
    simp only [List.length_singleton, List.foldl_cons, List.foldl_nil, pow_succ]
    nlinarith

/-! ### Texts -/

/-- Trimming does not lengthen a text (R12). -/
theorem length_trim_le (t : Text) : (trim t).length ≤ t.length := by
  unfold trim
  rw [List.length_reverse]
  refine (List.dropWhile_sublist _).length_le.trans ?_
  rw [List.length_reverse]
  exact (List.dropWhile_sublist _).length_le

/-- A text with a character other than the space does not trim to the empty one (R12). -/
theorem trim_ne_nil {t : Text} {b : Byte} (hb : b ∈ t) (hs : b ≠ spaceByte) : trim t ≠ [] := by
  have key : ∀ {l : List Byte}, b ∈ l → b ∈ l.dropWhile (· == spaceByte) := by
    intro l hl
    induction l with
    | nil => cases hl
    | cons x l ih =>
      rw [List.dropWhile_cons]
      split
      · rename_i hx
        rcases List.mem_cons.1 hl with rfl | hl
        · exact absurd (eq_of_beq hx) hs
        · exact ih hl
      · exact hl
  intro h
  have h1 : b ∈ trim t := by
    unfold trim
    exact List.mem_reverse.2 (key (List.mem_reverse.2 (key hb)))
  rw [h] at h1
  cases h1

/-- Trimming removes the spaces around a text that neither begins nor ends with one (R12). -/
theorem trim_append {pre post mid : Text} (hpre : ∀ b ∈ pre, b = spaceByte)
    (hpost : ∀ b ∈ post, b = spaceByte) (hhead : mid.head? ≠ some spaceByte)
    (hlast : mid.getLast? ≠ some spaceByte) : trim (pre ++ mid ++ post) = mid := by
  have all : ∀ {l : List Byte}, (∀ b ∈ l, b = spaceByte) → ∀ r : List Byte,
      (l ++ r).dropWhile (· == spaceByte) = r.dropWhile (· == spaceByte) := by
    intro l hl r
    induction l with
    | nil => rfl
    | cons x l ih =>
      rw [List.cons_append, List.dropWhile_cons_of_pos (by simp [hl x List.mem_cons_self])]
      exact ih fun b hb => hl b (List.mem_cons_of_mem _ hb)
  have keep : ∀ {l : List Byte}, l.head? ≠ some spaceByte → l.dropWhile (· == spaceByte) = l := by
    intro l hl
    cases l with
    | nil => rfl
    | cons x l =>
      exact List.dropWhile_cons_of_neg fun h => hl (by simp [eq_of_beq h])
  cases mid with
  | nil =>
    unfold trim
    rw [List.append_assoc, all hpre, List.nil_append]
    have h0 := all hpost []
    rw [List.append_nil] at h0
    rw [h0]
    rfl
  | cons x mid =>
    unfold trim
    rw [List.append_assoc, all hpre, List.cons_append,
      List.dropWhile_cons_of_neg fun h => hhead (by simp [eq_of_beq h]), ← List.cons_append,
      List.reverse_append, all (fun b hb => hpost b (List.mem_reverse.1 hb)),
      keep (by rwa [List.head?_reverse]), List.reverse_reverse]

/-! ### Clamping -/

theorem abs_clamp_le {v b : Int} (hb : 0 ≤ b) : |clamp v (-b) b| ≤ b := by
  unfold clamp
  split
  · rw [abs_neg, abs_of_nonneg hb]
  · split
    · rw [abs_of_nonneg hb]
    · rw [abs_le]; omega

theorem clamp_pos_iff {v b : Int} (hb : 0 < b) : 0 < clamp v (-b) b ↔ 0 < v := by
  unfold clamp
  split
  · omega
  · split <;> omega

end Sys2Proof.Machine
end

