-- ==== Sys2Proof/Laws/Engine.lean ====
section
/-! SUPPORT. What the shared operations of the engine can do, said once each: completion, chaining of
bodies, and the body of every command. -/

namespace Sys2Proof.Machine

open Sys2Proof

/-! ### Completion and chaining -/

@[simp] theorem BodyResult.finish_done (s : State) :
    (BodyResult.done s).finish = .next (s.completeWith .ok) := rfl

@[simp] theorem BodyResult.finish_raised (e : ErrCode) (s : State) :
    (BodyResult.raised e s).finish = .next (s.completeWith e) := rfl

@[simp] theorem BodyResult.andThen_done (s : State) (k : State → BodyResult) :
    (BodyResult.done s).andThen k = k s := rfl

@[simp] theorem BodyResult.andThen_raised (e : ErrCode) (s : State) (k : State → BodyResult) :
    (BodyResult.raised e s).andThen k = .raised e s := rfl

/-- The state in which a body ended, with or without an error. -/
def BodyResult.out : BodyResult → State
  | .done s => s
  | .raised _ s => s

/-- The code with which a body ended, 0 if it ran to its end. -/
def BodyResult.code : BodyResult → ErrCode
  | .done _ => .ok
  | .raised e _ => e

@[simp] theorem BodyResult.out_done (s : State) : (BodyResult.done s).out = s := rfl
@[simp] theorem BodyResult.out_raised (e : ErrCode) (s : State) : (BodyResult.raised e s).out = s := rfl
@[simp] theorem BodyResult.code_done (s : State) : (BodyResult.done s).code = .ok := rfl
@[simp] theorem BodyResult.code_raised (e : ErrCode) (s : State) : (BodyResult.raised e s).code = e :=
  rfl

/-- A command always completes, in the state in which its body ended (R102, R324). -/
theorem BodyResult.finish_eq (r : BodyResult) : r.finish = .next (r.out.completeWith r.code) := by
  cases r <;> rfl

/-- A relation that holds across two bodies, and is transitive, holds across their chain. -/
theorem BodyResult.out_andThen {R : State → State → Prop} (htrans : ∀ a b c, R a b → R b c → R a c)
    {s : State} {r : BodyResult} {k : State → BodyResult} (h : R s r.out)
    (hk : ∀ t, R t (k t).out) : R s (r.andThen k).out := by
  cases r with
  | done t => exact htrans _ _ _ h (hk t)
  | raised e t => exact h

/-- What holds of the state after each of two bodies, if it held before, holds after their chain. -/
theorem BodyResult.invariant_andThen {P : State → Prop} {r : BodyResult} {k : State → BodyResult}
    (h : P r.out) (hk : ∀ t, P t → P (k t).out) : P (r.andThen k).out := by
  cases r with
  | done t => exact hk t h
  | raised e t => exact h

/-! ### The bodies of the commands, case by case -/

/-- The body of EXTRACT (R160 to R162): the two errors, which change nothing, or the result. -/
theorem extractBody_cases (idx : Nat) (s : State) :
    (s.candCount.toNat ≤ idx ∧ extractBody idx s = .raised .operand s) ∨
    (idx < s.candCount.toNat ∧ inRange s.cfg (s.candidate idx) = false ∧
      extractBody idx s = .raised .geom s) ∨
    (idx < s.candCount.toNat ∧ inRange s.cfg (s.candidate idx) = true ∧
      extractBody idx s = .done { s with
        valid := Valid.afterExtract
        curCand := BitVec.ofNat 7 idx
        llr := llrValues s (s.candidate idx) }) := by
  unfold extractBody
  by_cases h : s.candCount.toNat ≤ idx
  · exact .inl ⟨h, if_pos h⟩
  · rw [if_neg h]
    cases hr : inRange s.cfg (s.candidate idx)
    · exact .inr (.inl ⟨by omega, rfl, if_pos rfl⟩)
    · exact .inr (.inr ⟨by omega, rfl, if_neg (by simp)⟩)

/-- The body of LDPC (R175). -/
theorem ldpcBody_cases (s : State) :
    (s.valid.llrRdy = false ∧ ldpcBody s = .raised .seq s) ∨
    (s.valid.llrRdy = true ∧ ldpcBody s = .done { s with
      hard := packBits 174 s.ldpcOutcome.bits
      ldpcErrors := BitVec.ofNat 8 s.ldpcOutcome.errors
      ldpcIter := BitVec.ofNat 8 s.ldpcOutcome.iterations
      valid := s.valid.afterLdpc (decide (s.ldpcOutcome.errors = 0)) }) := by
  unfold ldpcBody
  cases h : s.valid.llrRdy
  · exact .inl ⟨rfl, if_pos rfl⟩
  · exact .inr ⟨rfl, if_neg (by simp)⟩

/-- The body of CHECK (R200). -/
theorem checkBody_cases (s : State) :
    (s.valid.cwOk = false ∧ checkBody s = .raised .seq s) ∨
    (s.valid.cwOk = true ∧ checkBody s = .done { s with
      a91 := packPayload s.hard
      crcRx := embeddedCrc (packPayload s.hard)
      crcCalc := computedCrc (packPayload s.hard)
      crcOk := decide (embeddedCrc (packPayload s.hard) = computedCrc (packPayload s.hard))
      valid := s.valid.afterCheck
        (decide (embeddedCrc (packPayload s.hard) = computedCrc (packPayload s.hard))) }) := by
  unfold checkBody
  cases h : s.valid.cwOk
  · exact .inl ⟨rfl, if_pos rfl⟩
  · exact .inr ⟨rfl, if_neg (by simp)⟩

/-- The body of UNPACK (R215). -/
theorem unpackBody_cases (s : State) :
    (s.valid.payOk = false ∧ unpackBody s = .raised .seq s) ∨
    (s.valid.payOk = true ∧ ∃ reason, unpackMessage s.ht (message77 s.a91) = .error reason ∧
      unpackBody s = .done { s with
        i3 := BitVec.ofNat 3 (tagI3 (message77 s.a91))
        n3 := BitVec.ofNat 3 (tagN3 (message77 s.a91))
        msg := Msg.zero
        ufail := reason
        valid := s.valid.afterUnpack false }) ∨
    (s.valid.payOk = true ∧ ∃ m, unpackMessage s.ht (message77 s.a91) = .ok m ∧
      unpackBody s = .done { s with
        i3 := BitVec.ofNat 3 (tagI3 (message77 s.a91))
        n3 := BitVec.ofNat 3 (tagN3 (message77 s.a91))
        msg := m
        ufail := .none
        valid := s.valid.afterUnpack true }) := by
  cases h : s.valid.payOk
  · left; simp [unpackBody, h]
  · cases hu : unpackMessage s.ht (message77 s.a91) with
    | error reason => exact .inr (.inl ⟨rfl, reason, rfl, by simp [unpackBody, h, hu]⟩)
    | ok m => exact .inr (.inr ⟨rfl, m, rfl, by simp [unpackBody, h, hu]⟩)

/-- The body of STORE (R290): the error, or one disposition for the current candidate, with a new
record only if it is `DP_STORED`. -/
theorem storeBody_cases (s : State) :
    (s.valid.msgOk = false ∧ storeBody s = .raised .seq s) ∨
    (s.valid.msgOk = true ∧ isDuplicate s = true ∧
      storeBody s = .done (s.setDisp s.curCand.toNat .dup)) ∨
    (s.valid.msgOk = true ∧ isDuplicate s = false ∧ s.res.length = Config.resCap ∧
      storeBody s = .done (s.setDisp s.curCand.toNat .full)) ∨
    (s.valid.msgOk = true ∧ isDuplicate s = false ∧ s.res.length ≠ Config.resCap ∧
      storeBody s = .done ({ s with res := s.res ++ [recordOf s s.curCand] }.setDisp
        s.curCand.toNat .stored)) := by
  cases h : s.valid.msgOk
  · left; simp [storeBody, h]
  · cases hd : isDuplicate s
    · by_cases hl : s.res.length = Config.resCap
      · right; right; left; simp [storeBody, h, hd, hl]
      · right; right; right; simp [storeBody, h, hd, hl]
    · right; left; simp [storeBody, h, hd]

/-- The body of HTADD (R270): an invalid text, a key already present, a full table, a new slot. -/
theorem htaddBody_cases (s : State) :
    (validCallsign s.htTextOperand = false ∧
      htaddBody s = .raised .htInvalid { s with htKeyOut := htSentinel }) ∨
    (validCallsign s.htTextOperand = true ∧ (htFind22 s.ht (hash22 s.htTextOperand)).isSome = true ∧
      htaddBody s = .done { s with
        ht := replaceText s.ht (hash22 s.htTextOperand) s.htTextOperand
        htKeyOut := (hash22 s.htTextOperand).setWidth 32 }) ∨
    (validCallsign s.htTextOperand = true ∧ htFind22 s.ht (hash22 s.htTextOperand) = none ∧
      s.ht.length = s.cfg.htCap ∧
      htaddBody s = .raised .htFull { s with htKeyOut := htSentinel }) ∨
    (validCallsign s.htTextOperand = true ∧ htFind22 s.ht (hash22 s.htTextOperand) = none ∧
      s.ht.length ≠ s.cfg.htCap ∧
      htaddBody s = .done { s with
        ht := s.ht ++ [{ key := hash22 s.htTextOperand, text := s.htTextOperand }]
        htKeyOut := (hash22 s.htTextOperand).setWidth 32 }) := by
  unfold htaddBody
  cases hv : validCallsign s.htTextOperand
  · exact .inl ⟨rfl, by simp [hv]⟩
  · cases hf : htFind22 s.ht (hash22 s.htTextOperand) with
    | some e => exact .inr (.inl ⟨rfl, rfl, by simp [hv, hf]⟩)
    | none =>
      by_cases hl : s.ht.length = s.cfg.htCap
      · exact .inr (.inr (.inl ⟨rfl, rfl, hl, by simp [hv, hf, hl]⟩))
      · exact .inr (.inr (.inr ⟨rfl, rfl, hl, by simp [hv, hf, hl]⟩))

/-! ### What no body writes -/

/-- `t` differs from `s` only in what the engine writes: everything only the host and the reset write
is the same (10_state.md section 8). -/
structure EngineFrame (s t : State) : Prop where
  cfg : t.cfg = s.cfg
  ie : t.ie = s.ie
  minScore : t.minScore = s.minScore
  maxCand : t.maxCand = s.maxCand
  maxIter : t.maxIter = s.maxIter
  syncMap : t.syncMap = s.syncMap
  grayMap : t.grayMap = s.grayMap
  baseBin : t.baseBin = s.baseBin
  slotSeq : t.slotSeq = s.slotSeq
  timestamp : t.timestamp = s.timestamp
  cmdDropped : t.cmdDropped = s.cmdDropped
  busyAcc : t.busyAcc = s.busyAcc
  badAcc : t.badAcc = s.badAcc
  lastOp : t.lastOp = s.lastOp
  htKeyIn : t.htKeyIn = s.htKeyIn
  htLenIn : t.htLenIn = s.htLenIn
  htTextIn : t.htTextIn = s.htTextIn
  pm : t.pm = s.pm
  resetEpoch : t.resetEpoch = s.resetEpoch
  inReset : t.inReset = s.inReset
  inputs : t.inputs = s.inputs
  readData : t.readData = s.readData

theorem EngineFrame.refl (s : State) : EngineFrame s s := by constructor <;> rfl

theorem EngineFrame.trans {s t u : State} (h : EngineFrame s t) (h' : EngineFrame t u) :
    EngineFrame s u where
  cfg := h'.cfg.trans h.cfg
  ie := h'.ie.trans h.ie
  minScore := h'.minScore.trans h.minScore
  maxCand := h'.maxCand.trans h.maxCand
  maxIter := h'.maxIter.trans h.maxIter
  syncMap := h'.syncMap.trans h.syncMap
  grayMap := h'.grayMap.trans h.grayMap
  baseBin := h'.baseBin.trans h.baseBin
  slotSeq := h'.slotSeq.trans h.slotSeq
  timestamp := h'.timestamp.trans h.timestamp
  cmdDropped := h'.cmdDropped.trans h.cmdDropped
  busyAcc := h'.busyAcc.trans h.busyAcc
  badAcc := h'.badAcc.trans h.badAcc
  lastOp := h'.lastOp.trans h.lastOp
  htKeyIn := h'.htKeyIn.trans h.htKeyIn
  htLenIn := h'.htLenIn.trans h.htLenIn
  htTextIn := h'.htTextIn.trans h.htTextIn
  pm := h'.pm.trans h.pm
  resetEpoch := h'.resetEpoch.trans h.resetEpoch
  inReset := h'.inReset.trans h.inReset
  inputs := h'.inputs.trans h.inputs
  readData := h'.readData.trans h.readData

/-- The matrix reads the same across an engine frame. -/
theorem EngineFrame.pmCell {s t : State} (h : EngineFrame s t) (c : Nat) : t.pmCell c = s.pmCell c := by
  simp only [State.pmCell, h.pm, h.resetEpoch]

theorem EngineFrame.enter (ph : Phase) (s : State) : EngineFrame s (s.enter ph) := by
  constructor <;> rfl

theorem EngineFrame.enterAt (ph : Phase) (k : Nat) (s : State) : EngineFrame s (s.enterAt ph k) := by
  constructor <;> rfl

theorem EngineFrame.completeWith (e : ErrCode) (s : State) : EngineFrame s (s.completeWith e) := by
  constructor <;> rfl

theorem EngineFrame.setDisp (i : Nat) (d : Disposition) (s : State) : EngineFrame s (s.setDisp i d) := by
  constructor <;> rfl

theorem EngineFrame.syncBody (s : State) : EngineFrame s (syncBody s).out := by
  constructor <;> rfl

theorem EngineFrame.clrresBody (s : State) : EngineFrame s (clrresBody s).out := by
  constructor <;> rfl

theorem EngineFrame.lookupResult (found : Option Slot) (s : State) :
    EngineFrame s (lookupResult found s) := by
  cases found <;> constructor <;> rfl

theorem EngineFrame.extractBody (idx : Nat) (s : State) : EngineFrame s (extractBody idx s).out := by
  rcases extractBody_cases idx s with ⟨-, h⟩ | ⟨-, -, h⟩ | ⟨-, -, h⟩ <;> rw [h] <;> constructor <;> rfl

theorem EngineFrame.ldpcBody (s : State) : EngineFrame s (ldpcBody s).out := by
  rcases ldpcBody_cases s with ⟨-, h⟩ | ⟨-, h⟩ <;> rw [h] <;> constructor <;> rfl

theorem EngineFrame.checkBody (s : State) : EngineFrame s (checkBody s).out := by
  rcases checkBody_cases s with ⟨-, h⟩ | ⟨-, h⟩ <;> rw [h] <;> constructor <;> rfl

theorem EngineFrame.unpackBody (s : State) : EngineFrame s (unpackBody s).out := by
  rcases unpackBody_cases s with ⟨-, h⟩ | ⟨-, _, -, h⟩ | ⟨-, _, -, h⟩ <;> rw [h] <;>
    constructor <;> rfl

theorem EngineFrame.storeBody (s : State) : EngineFrame s (storeBody s).out := by
  rcases storeBody_cases s with ⟨-, h⟩ | ⟨-, -, h⟩ | ⟨-, -, -, h⟩ | ⟨-, -, -, h⟩ <;> rw [h] <;>
    constructor <;> rfl

theorem EngineFrame.htaddBody (s : State) : EngineFrame s (htaddBody s).out := by
  rcases htaddBody_cases s with ⟨-, h⟩ | ⟨-, -, h⟩ | ⟨-, -, -, h⟩ | ⟨-, -, -, h⟩ <;> rw [h] <;>
    constructor <;> rfl

/-! ### DECODE -/

/-- What every stage body keeps, and every move of `SEQ` and every drop keeps, one candidate of DECODE
keeps (R307). -/
theorem decodeCandidate_keeps {P : State → Prop} (idx : Nat)
    (hseq : ∀ ph s, P s → P (s.enterAt ph idx))
    (hdrop : ∀ d s, P s → P (s.setDisp s.curCand.toNat d))
    (hextract : ∀ s, P s → P (extractBody idx s).out) (hldpc : ∀ s, P s → P (ldpcBody s).out)
    (hcheck : ∀ s, P s → P (checkBody s).out) (hunpack : ∀ s, P s → P (unpackBody s).out)
    (hstore : ∀ s, P s → P (storeBody s).out) {s : State} (h : P s) :
    P (decodeCandidate idx s).out := by
  have h4 : ∀ s, P s → P (decodeStore idx s).out := by
    intro s hs
    unfold decodeStore
    split
    · exact hdrop _ _ hs
    · exact hstore _ (hseq _ _ hs)
  have h3 : ∀ s, P s → P (decodeUnpack idx s).out := by
    intro s hs
    unfold decodeUnpack
    split
    · exact hdrop _ _ hs
    · exact BodyResult.invariant_andThen (hunpack _ (hseq _ _ hs)) h4
  have h2 : ∀ s, P s → P (decodeCheck idx s).out := by
    intro s hs
    unfold decodeCheck
    split
    · exact hdrop _ _ hs
    · exact BodyResult.invariant_andThen (hcheck _ (hseq _ _ hs)) h3
  unfold decodeCandidate
  refine BodyResult.invariant_andThen (BodyResult.invariant_andThen (hextract _ (hseq _ _ h)) ?_) h2
  exact fun t ht => hldpc _ (hseq _ _ ht)

/-- The loop of DECODE, one candidate at a time from the front. -/
theorem decodeLoop_cons (idx : Nat) (idxs : List Nat) (s : State) :
    decodeLoop (idx :: idxs) s = (decodeCandidate idx s).andThen (decodeLoop idxs) := by
  have hraised : ∀ (l : List Nat) (e : ErrCode) (u : State),
      l.foldl (fun r i => BodyResult.andThen r (decodeCandidate i)) (.raised e u) = .raised e u := by
    intro l e u
    induction l with
    | nil => rfl
    | cons x l ih => simpa using ih
  simp only [decodeLoop, List.foldl_cons, BodyResult.andThen_done]
  cases decodeCandidate idx s with
  | done t => rfl
  | raised e t => exact hraised _ _ _

@[simp] theorem decodeLoop_nil (s : State) : decodeLoop [] s = .done s := rfl

/-- The loop of DECODE, the last candidate last. -/
theorem decodeLoop_append (l : List Nat) (idx : Nat) (s : State) :
    decodeLoop (l ++ [idx]) s = (decodeLoop l s).andThen (decodeCandidate idx) := by
  simp [decodeLoop]

/-- What one candidate of DECODE keeps, its loop keeps. -/
theorem decodeLoop_keeps {P : State → Prop} (idxs : List Nat)
    (h : ∀ idx ∈ idxs, ∀ s, P s → P (decodeCandidate idx s).out) {s : State} (hs : P s) :
    P (decodeLoop idxs s).out := by
  induction idxs generalizing s with
  | nil => exact hs
  | cons idx idxs ih =>
    rw [decodeLoop_cons]
    exact BodyResult.invariant_andThen (h idx List.mem_cons_self s hs) fun t ht =>
      ih (fun i hi => h i (List.mem_cons_of_mem _ hi)) ht

/-- What the bodies of CLRRES, SYNC and the stages, the moves of `SEQ` and the drops keep, the body of
DECODE keeps (R307); `N` bounds the index in `SEQ`. -/
theorem decodeBody_keeps {P : State → Prop} {N : Nat} (hN : ∀ s, P s → s.candCount.toNat ≤ N)
    (hseq : ∀ ph k s, k ≤ N → P s → P (s.enterAt ph k))
    (hclrres : ∀ s, P s → P (clrresBody s).out) (hsync : ∀ s, P s → P (syncBody s).out)
    (hdrop : ∀ d s, P s → P (s.setDisp s.curCand.toNat d))
    (hextract : ∀ idx s, P s → P (extractBody idx s).out) (hldpc : ∀ s, P s → P (ldpcBody s).out)
    (hcheck : ∀ s, P s → P (checkBody s).out) (hunpack : ∀ s, P s → P (unpackBody s).out)
    (hstore : ∀ s, P s → P (storeBody s).out) {s : State} (h : P s) : P (decodeBody s).out := by
  unfold decodeBody
  refine BodyResult.invariant_andThen (BodyResult.invariant_andThen (BodyResult.invariant_andThen
    (hclrres _ (hseq _ _ _ (Nat.zero_le _) h)) fun t ht => hsync _ (hseq _ _ _ (Nat.zero_le _) ht))
    fun t ht => ?_) fun t ht => hseq _ _ _ (hN _ ht) ht
  refine decodeLoop_keeps _ (fun idx hidx s hs => ?_) ht
  have hle : idx ≤ N := (List.mem_range.1 hidx).le.trans (hN _ ht)
  exact decodeCandidate_keeps idx (fun ph s => hseq ph idx s hle) hdrop (hextract idx) hldpc hcheck
    hunpack hstore hs

theorem EngineFrame.decodeBody (s : State) : EngineFrame s (decodeBody s).out :=
  decodeBody_keeps (P := EngineFrame s) (N := 127) (fun t _ => by have := t.candCount.isLt; omega)
    (fun ph k t _ h => h.trans (.enterAt ph k t))
    (fun t h => h.trans (.clrresBody t)) (fun t h => h.trans (.syncBody t))
    (fun d t h => h.trans (.setDisp _ d t)) (fun idx t h => h.trans (.extractBody idx t))
    (fun t h => h.trans (.ldpcBody t)) (fun t h => h.trans (.checkBody t))
    (fun t h => h.trans (.unpackBody t)) (fun t h => h.trans (.storeBody t)) (.refl s)

/-! ### Every command -/

/-- What `exec` does to a state before its completion: the body of the command, after its first move
of `SEQ`. -/
def commandBody : Instr → State → BodyResult
  | .nop, s => .done s
  | .sync, s => syncBody (s.enterAt .sync 0)
  | .extract idx, s => extractBody idx (s.enter .extract)
  | .ldpc, s => ldpcBody (s.enter .ldpc)
  | .check, s => checkBody (s.enter .check)
  | .unpack, s => unpackBody (s.enter .unpack)
  | .store, s => storeBody (s.enter .store)
  | .decode, s => decodeBody s
  | .clrres, s => clrresBody (s.enter .clear)
  | .htadd, s => htaddBody (s.enter .hash)
  | .htlook, s => .done (lookupResult (htFind22 s.ht s.htKeyIn) (s.enter .hash))
  | .htlook12, s => .done (lookupResult (htFind12 s.ht (s.htKeyIn.extractLsb' 0 12)) (s.enter .hash))

/-- Every command is its body and then its completion (R102, R324). -/
theorem exec_eq (i : Instr) (s : State) :
    exec i s = .next ((commandBody i s).out.completeWith (commandBody i s).code) := by
  cases i with
  | nop => rfl
  | sync => rfl
  | clrres => rfl
  | htlook => rfl
  | htlook12 => rfl
  | extract idx => exact BodyResult.finish_eq _
  | ldpc => exact BodyResult.finish_eq _
  | check => exact BodyResult.finish_eq _
  | unpack => exact BodyResult.finish_eq _
  | store => exact BodyResult.finish_eq _
  | decode => exact BodyResult.finish_eq _
  | htadd => exact BodyResult.finish_eq _

/-- What every body keeps, every command keeps. -/
theorem commandBody_keeps {P : State → Prop} {N : Nat} (henter : ∀ ph s, P s → P (s.enter ph))
    (hN : ∀ s, P s → s.candCount.toNat ≤ N) (hseq : ∀ ph k s, k ≤ N → P s → P (s.enterAt ph k))
    (hclrres : ∀ s, P s → P (clrresBody s).out) (hsync : ∀ s, P s → P (syncBody s).out)
    (hdrop : ∀ d s, P s → P (s.setDisp s.curCand.toNat d))
    (hextract : ∀ idx s, P s → P (extractBody idx s).out) (hldpc : ∀ s, P s → P (ldpcBody s).out)
    (hcheck : ∀ s, P s → P (checkBody s).out) (hunpack : ∀ s, P s → P (unpackBody s).out)
    (hstore : ∀ s, P s → P (storeBody s).out) (hhtadd : ∀ s, P s → P (htaddBody s).out)
    (hlook : ∀ s key, P s → P (lookupResult (htFind22 s.ht key) s))
    (hlook12 : ∀ s key, P s → P (lookupResult (htFind12 s.ht key) s))
    (i : Instr) {s : State} (h : P s) : P (commandBody i s).out := by
  cases i with
  | nop => exact h
  | sync => exact hsync _ (hseq _ _ _ (Nat.zero_le _) h)
  | extract idx => exact hextract _ _ (henter _ _ h)
  | ldpc => exact hldpc _ (henter _ _ h)
  | check => exact hcheck _ (henter _ _ h)
  | unpack => exact hunpack _ (henter _ _ h)
  | store => exact hstore _ (henter _ _ h)
  | decode => exact decodeBody_keeps hN hseq hclrres hsync hdrop hextract hldpc hcheck hunpack hstore h
  | clrres => exact hclrres _ (henter _ _ h)
  | htadd => exact hhtadd _ (henter _ _ h)
  | htlook => exact hlook (s.enter .hash) _ (henter _ _ h)
  | htlook12 => exact hlook12 (s.enter .hash) _ (henter _ _ h)

theorem EngineFrame.commandBody (i : Instr) (s : State) : EngineFrame s (commandBody i s).out :=
  commandBody_keeps (P := EngineFrame s) (N := 127) (fun ph t h => h.trans (.enter ph t))
    (fun t _ => by have := t.candCount.isLt; omega) (fun ph k t _ h => h.trans (.enterAt ph k t))
    (fun t h => h.trans (.clrresBody t)) (fun t h => h.trans (.syncBody t))
    (fun d t h => h.trans (.setDisp _ d t)) (fun idx t h => h.trans (.extractBody idx t))
    (fun t h => h.trans (.ldpcBody t)) (fun t h => h.trans (.checkBody t))
    (fun t h => h.trans (.unpackBody t)) (fun t h => h.trans (.storeBody t))
    (fun t h => h.trans (.htaddBody t)) (fun t _ h => h.trans (.lookupResult _ t))
    (fun t _ h => h.trans (.lookupResult _ t)) i (.refl s)

end Sys2Proof.Machine
end

