-- ==== Sys2Proof/Laws/HashTable.lean ====
section
/-! SUPPORT. Laws of the callsign hash table: what replacing a text and appending a slot keep. -/

namespace Sys2Proof.Machine

open Sys2Proof

/-- Replacing a text keeps every key in its place (R273). -/
theorem map_key_replaceText (ht : List Slot) (key : BitVec 22) (t : Text) :
    (replaceText ht key t).map Slot.key = ht.map Slot.key := by
  unfold replaceText
  rw [List.map_map]
  apply List.map_congr_left
  intro e _
  dsimp only [Function.comp]
  split <;> rfl

@[simp] theorem length_replaceText (ht : List Slot) (key : BitVec 22) (t : Text) :
    (replaceText ht key t).length = ht.length := by simp [replaceText]

/-- Every slot after replacing a text: the new text under its key, or an old slot (R273). -/
theorem mem_replaceText {ht : List Slot} {key : BitVec 22} {t : Text} {e : Slot}
    (h : e ∈ replaceText ht key t) : (e.key = key ∧ e.text = t) ∨ e ∈ ht := by
  unfold replaceText at h
  obtain ⟨e', he', rfl⟩ := List.mem_map.1 h
  split
  · rename_i hk; exact .inl ⟨hk, rfl⟩
  · exact .inr he'

/-- No slot has a key that a lookup does not find (R277). -/
theorem htFind22_eq_none {ht : List Slot} {key : BitVec 22} :
    htFind22 ht key = none ↔ ∀ e ∈ ht, e.key ≠ key := by
  simp [htFind22]

/-- A slot that a lookup finds is in use and has the key (R277). -/
theorem htFind22_eq_some {ht : List Slot} {key : BitVec 22} {e : Slot} (h : htFind22 ht key = some e) :
    e ∈ ht ∧ e.key = key :=
  ⟨List.mem_of_find?_eq_some h, by simpa using List.find?_some h⟩

/-- A lookup after replacing the text of a key in use gives the new text (R273, R277). -/
theorem htFind22_replaceText {ht : List Slot} {key : BitVec 22} {t : Text}
    (h : (htFind22 ht key).isSome = true) :
    ∃ e, htFind22 (replaceText ht key t) key = some e ∧ e.text = t := by
  induction ht with
  | nil => simp [htFind22] at h
  | cons x ht ih =>
    by_cases hx : x.key = key
    · exact ⟨{ x with text := t }, by simp [htFind22, replaceText, hx], rfl⟩
    · obtain ⟨e, he, het⟩ := ih (by simpa [htFind22, hx] using h)
      exact ⟨e, by simpa [htFind22, replaceText, hx] using he, het⟩

/-- A lookup of the key of a slot just appended under a new key gives that slot (R273, R277). -/
theorem htFind22_append {ht : List Slot} {key : BitVec 22} (t : Text) (h : htFind22 ht key = none) :
    htFind22 (ht ++ [{ key := key, text := t }]) key = some { key := key, text := t } := by
  unfold htFind22 at h ⊢
  rw [List.find?_append, h]
  simp

/-- A lookup result changes nothing but `HT_TEXT_OUT` (R276, R278). -/
theorem lookupResult_eq (found : Option Slot) (s : State) :
    lookupResult found s = { s with htTextOut := (found.map Slot.text).getD [] } := by
  cases found <;> rfl

end Sys2Proof.Machine
end

