-- ==== Sys2Proof/Laws/Memory.lean ====
section
/-! SUPPORT. The laws of the power matrix memory: what a read after a write gives, and that every
memory operation keeps the canonical form. -/

namespace Sys2Proof.Machine

open Sys2Proof

/-- Every cell number of the list is above `c`. -/
theorem Memory.wf_cons {a : Nat} {b : Byte} {m : Memory} :
    Memory.wf ((a, b) :: m) = true ↔ Memory.wf m = true ∧ ∀ e ∈ m, a < e.1 := by
  induction m generalizing a b with
  | nil => simp [Memory.wf]
  | cons e m ih =>
    obtain ⟨c, v⟩ := e
    constructor
    · intro h
      simp only [Memory.wf, Bool.and_eq_true, decide_eq_true_eq] at h
      refine ⟨h.2, fun x hx => ?_⟩
      rcases List.mem_cons.1 hx with rfl | hx
      · exact h.1
      · exact h.1.trans ((ih.1 h.2).2 x hx)
    · rintro ⟨h, hb⟩
      simp only [Memory.wf, Bool.and_eq_true, decide_eq_true_eq]
      exact ⟨hb _ List.mem_cons_self, h⟩

/-- A write lists the cell it writes and, but for it, what was listed. -/
theorem Memory.mem_write {m : Memory} {c : Nat} {v : Byte} {e : Host.Cell}
    (h : e ∈ Memory.write m c v) : e = (c, v) ∨ e ∈ m := by
  induction m with
  | nil => simpa [Memory.write] using h
  | cons x m ih =>
    obtain ⟨a, b⟩ := x
    simp only [Memory.write] at h
    split at h
    · simpa using h
    · split at h
      · rcases List.mem_cons.1 h with h | h
        · exact .inl h
        · exact .inr (List.mem_cons_of_mem _ h)
      · rcases List.mem_cons.1 h with h | h
        · exact .inr (by simp [h])
        · exact (ih h).imp_right (List.mem_cons_of_mem _)

/-- A write keeps the canonical form. -/
theorem Memory.wf_write {m : Memory} (h : m.wf = true) (c : Nat) (v : Byte) :
    (Memory.write m c v).wf = true := by
  induction m with
  | nil => rfl
  | cons x m ih =>
    obtain ⟨a, b⟩ := x
    obtain ⟨hm, hb⟩ := Memory.wf_cons.1 h
    simp only [Memory.write]
    split
    · rename_i hlt
      refine Memory.wf_cons.2 ⟨h, fun e he => ?_⟩
      rcases List.mem_cons.1 he with rfl | he
      · exact hlt
      · exact hlt.trans (hb e he)
    · split
      · rename_i heq
        exact Memory.wf_cons.2 ⟨hm, by subst heq; exact hb⟩
      · refine Memory.wf_cons.2 ⟨ih hm, fun e he => ?_⟩
        rcases Memory.mem_write he with rfl | he
        · dsimp only; omega
        · exact hb e he

/-- A read of the written cell gives the written byte. -/
@[simp] theorem Memory.lookup_write_self (m : Memory) (c : Nat) (v : Byte) :
    (Memory.write m c v).lookup c = some v := by
  induction m with
  | nil => simp [Memory.write, Memory.lookup]
  | cons x m ih =>
    obtain ⟨a, b⟩ := x
    simp only [Memory.write]
    split
    · simp [Memory.lookup]
    · split
      · simp [Memory.lookup]
      · rename_i _ hne
        rw [Memory.lookup, if_neg (fun h => hne h.symm), ih]

/-- A write leaves every other cell alone. -/
theorem Memory.lookup_write_of_ne (m : Memory) {c d : Nat} (v : Byte) (h : d ≠ c) :
    (Memory.write m c v).lookup d = m.lookup d := by
  induction m with
  | nil => simp [Memory.write, Memory.lookup, Ne.symm h]
  | cons x m ih =>
    obtain ⟨a, b⟩ := x
    simp only [Memory.write]
    split
    · rw [Memory.lookup, if_neg (Ne.symm h)]
    · split
      · rename_i heq
        subst heq
        simp [Memory.lookup, Ne.symm h]
      · simp [Memory.lookup, ih]

/-- A cell above the last listed one, or of a gap, is not listed. -/
theorem Memory.lookup_eq_none_of_lt {m : Memory} {c : Nat} (h : ∀ e ∈ m, c < e.1) :
    m.lookup c = none := by
  induction m with
  | nil => rfl
  | cons x m ih =>
    obtain ⟨a, b⟩ := x
    have hc : c < a := h _ List.mem_cons_self
    rw [Memory.lookup, if_neg (by omega), ih fun e he => h e (List.mem_cons_of_mem _ he)]

/-- In the canonical form, memories that read the same at every cell are equal. -/
theorem Memory.ext_lookup {m n : Memory} (hm : m.wf = true) (hn : n.wf = true)
    (h : ∀ c, m.lookup c = n.lookup c) : m = n := by
  induction m generalizing n with
  | nil =>
    cases n with
    | nil => rfl
    | cons y n => obtain ⟨a, b⟩ := y; simpa [Memory.lookup] using h a
  | cons x m ih =>
    obtain ⟨a, b⟩ := x
    obtain ⟨wm, bm⟩ := Memory.wf_cons.1 hm
    cases n with
    | nil => simpa [Memory.lookup] using h a
    | cons y n =>
      obtain ⟨c, d⟩ := y
      obtain ⟨wn, bn⟩ := Memory.wf_cons.1 hn
      have hac : a = c := by
        rcases Nat.lt_trichotomy a c with hlt | rfl | hlt
        · have h1 := h a
          rw [Memory.lookup, if_pos rfl, Memory.lookup, if_neg (by omega),
            Memory.lookup_eq_none_of_lt fun e he => hlt.trans (bn e he)] at h1
          cases h1
        · rfl
        · have h1 := h c
          rw [Memory.lookup, if_neg (by omega), Memory.lookup, if_pos rfl,
            Memory.lookup_eq_none_of_lt fun e he => hlt.trans (bm e he)] at h1
          cases h1
      subst hac
      have hbd : b = d := by simpa [Memory.lookup] using h a
      subst hbd
      rw [ih wm wn fun k => ?_]
      by_cases hk : a = k
      · subst hk
        rw [Memory.lookup_eq_none_of_lt bm, Memory.lookup_eq_none_of_lt bn]
      · simpa [Memory.lookup, hk] using h k

/-- A cell of the matrix after a host write of one cell (R75). -/
theorem lookup_writePmByte (p : Config.Params) (m : Memory) (c d : Nat) (v : Byte) :
    (writePmByte p m c v).lookup d = if d = c ∧ c < p.pmBytes then some v else m.lookup d := by
  unfold writePmByte
  split
  · by_cases h : d = c
    · subst h; simp [*]
    · simp [h, Memory.lookup_write_of_ne m v h]
  · simp [*]

/-- A host write of a word keeps the canonical form (R75). -/
theorem wf_writePmWord (p : Config.Params) {m : Memory} (h : m.wf = true) (w : Nat) (v : Word) :
    (writePmWord p m w v).wf = true := by
  have key : ∀ {m : Memory} (c : Nat) (b : Byte), m.wf = true → (writePmByte p m c b).wf = true := by
    intro m c b hm
    unfold writePmByte
    split
    · exact Memory.wf_write hm c b
    · exact hm
  exact key _ _ (key _ _ (key _ _ (key _ _ h)))

/-- A host write of a word lists only cells of the matrix (R46, R75). -/
theorem mem_writePmWord (p : Config.Params) {m : Memory} (h : ∀ e ∈ m, e.1 < p.pmBytes) (w : Nat)
    (v : Word) : ∀ e ∈ writePmWord p m w v, e.1 < p.pmBytes := by
  have key : ∀ {m : Memory} (c : Nat) (b : Byte), (∀ e ∈ m, e.1 < p.pmBytes) →
      ∀ e ∈ writePmByte p m c b, e.1 < p.pmBytes := by
    intro m c b hm e he
    unfold writePmByte at he
    split at he
    · rcases Memory.mem_write he with rfl | he
      · assumption
      · exact hm e he
    · exact hm e he
  exact key _ _ (key _ _ (key _ _ (key _ _ h)))

/-- The memory after reset lists nothing and so has the canonical form (R352). -/
theorem resetWith_pm_wf (p : Config.Params) : (State.resetWith p).pm.wf = true := rfl

/-- A cell nothing has written since the last reset reads as the free value (R352). -/
theorem State.pmCell_of_lookup_none {s : State} {c : Nat} (h : s.pm.lookup c = none) :
    s.pmCell c = Config.pmPowerUp s.resetEpoch c := by
  simp [State.pmCell, h]

end Sys2Proof.Machine
end

