-- ==== Sys2Proof/Laws/PerInstr.lean ====
section
/-! SUPPORT. The statements made once for every instruction: the fields of its command word. -/

namespace Sys2Proof.Laws

/-- The encoding table of R100 and R103 row by row: the word of a well-formed command has its opcode
in `OP`, its operand in `ARG`, and zero in `RSV`. -/
def EncodeFields.Statement (i : Instr) : Prop :=
  i.wellFormed = true →
    (opField (encode i)).toNat = i.opcode ∧ (argField (encode i)).toNat = i.arg ∧
      rsvField (encode i) = 0

theorem EncodeFields.nop : EncodeFields.Statement .nop := fun _ => by decide

theorem EncodeFields.sync : EncodeFields.Statement .sync := fun _ => by decide

theorem EncodeFields.extract (idx : Nat) : EncodeFields.Statement (.extract idx) := by
  intro h
  have key : ∀ k : Fin 256, (opField (encode (.extract k))).toNat = 2 ∧
      (argField (encode (.extract k))).toNat = k ∧ rsvField (encode (.extract k)) = 0 := by
    decide +kernel
  exact key ⟨idx, by simpa [Instr.wellFormed, Nat.lt_succ_iff] using h⟩

theorem EncodeFields.ldpc : EncodeFields.Statement .ldpc := fun _ => by decide

theorem EncodeFields.check : EncodeFields.Statement .check := fun _ => by decide

theorem EncodeFields.unpack : EncodeFields.Statement .unpack := fun _ => by decide

theorem EncodeFields.store : EncodeFields.Statement .store := fun _ => by decide

theorem EncodeFields.decode : EncodeFields.Statement .decode := fun _ => by decide

theorem EncodeFields.clrres : EncodeFields.Statement .clrres := fun _ => by decide

theorem EncodeFields.htadd : EncodeFields.Statement .htadd := fun _ => by decide

theorem EncodeFields.htlook : EncodeFields.Statement .htlook := fun _ => by decide

theorem EncodeFields.htlook12 : EncodeFields.Statement .htlook12 := fun _ => by decide

end Sys2Proof.Laws
end

