-- ==== Sys2Proof/Laws/Stages.lean ====
section
/-! SUPPORT. What the stages compute: the bounds of a legal configuration, the length of SYNC's list,
what a run of the LDPC decoder ends with, the packed payload. -/

namespace Sys2Proof.Machine

open Sys2Proof

/-- The bounds of R7 and R38 that the register widths rest on. -/
theorem Config.bounds_of_legal {p : Config.Params} (h : p.legal = true) :
    1 ≤ p.timeOsr ∧ p.numBins ≤ 65535 ∧ 1 ≤ p.candCap ∧ p.candCap ≤ 64 ∧ p.htCap ≤ 65535 ∧
      p.numRows ≤ 32767 ∧ p.pmBytes ≤ 2 ^ 24 ∧ p.h.length = 83 := by
  simp only [Config.Params.legal, Config.Params.legalMatrix, Bool.and_eq_true, decide_eq_true_eq,
    beq_iff_eq] at h
  obtain ⟨⟨⟨⟨⟨⟨⟨⟨⟨⟨⟨⟨-, -⟩, h3⟩, -⟩, -⟩, h6⟩, h7⟩, h8⟩, -⟩, h10⟩, h11⟩, h12⟩, h13⟩ := h
  exact ⟨h3, h6, h7, h8, h10, h11, h12, h13.1.1⟩

/-! ### SYNC -/

theorem length_placeCandidate (kept : List Candidate) (c : Candidate) :
    (placeCandidate kept c).length = kept.length + 1 := by
  have := List.countP_le_length (p := fun d => decide (c.score.toInt ≤ d.score.toInt)) (l := kept)
  simp only [placeCandidate, List.length_append, List.length_take, List.length_cons,
    List.length_drop]
  omega

/-- An insertion never lengthens the list beyond `MAX_CAND` (R144). -/
theorem length_insertCandidate_le {m : Nat} {kept : List Candidate} (h : kept.length ≤ m)
    (c : Candidate) : (insertCandidate m kept c).length ≤ m := by
  unfold insertCandidate
  split
  · exact h
  · split
    · split
      · exact h
      · rw [length_placeCandidate, List.length_dropLast]; omega
    · rw [length_placeCandidate]; omega

/-- SYNC keeps at most `MAX_CAND` candidates (R140, R144). -/
theorem length_syncKept_le (s : State) : (syncKept s).length ≤ s.maxCand.toNat := by
  unfold syncKept
  suffices h : ∀ l kept : List Candidate, kept.length ≤ s.maxCand.toNat →
      (l.foldl (insertCandidate s.maxCand.toNat) kept).length ≤ s.maxCand.toNat from
    h _ _ (Nat.zero_le _)
  intro l
  induction l with
  | nil => exact fun _ h => h
  | cons x l ih => exact fun kept h => ih _ (length_insertCandidate_le h x)

theorem mem_insertCandidate {m : Nat} {kept : List Candidate} {c d : Candidate}
    (h : d ∈ insertCandidate m kept c) : d = c ∨ d ∈ kept := by
  have hp : ∀ {k : List Candidate}, d ∈ placeCandidate k c → d = c ∨ d ∈ k := by
    intro k hd
    simp only [placeCandidate, List.mem_append, List.mem_cons] at hd
    rcases hd with hd | rfl | hd
    · exact .inr (List.mem_of_mem_take hd)
    · exact .inl rfl
    · exact .inr (List.mem_of_mem_drop hd)
  unfold insertCandidate at h
  split at h
  · exact .inr h
  · split at h
    · split at h
      · exact .inr h
      · exact (hp h).imp_right List.mem_of_mem_dropLast
    · exact hp h

/-- SYNC keeps only qualifying candidates (R140). -/
theorem mem_syncKept {s : State} {c : Candidate} (h : c ∈ syncKept s) : c ∈ qualifying s := by
  unfold syncKept at h
  suffices hs : ∀ l kept : List Candidate, c ∈ l.foldl (insertCandidate s.maxCand.toNat) kept →
      c ∈ l ∨ c ∈ kept by
    rcases hs _ _ h with h | h
    · exact h
    · cases h
  intro l
  induction l with
  | nil => exact fun kept h => .inr h
  | cons x l ih =>
    intro kept h
    rcases ih _ h with h | h
    · exact .inl (List.mem_cons_of_mem _ h)
    · rcases mem_insertCandidate h with rfl | h
      · exact .inl List.mem_cons_self
      · exact .inr h

/-- The searched positions (R141). -/
theorem mem_searchPositions {p : Config.Params} {fs t f : Nat} :
    (fs, t, f) ∈ searchPositions p ↔
      fs < 2 ∧ t < p.numRows - 78 * p.timeOsr ∧ f < p.numBins - 7 := by
  simp [searchPositions]

/-! ### LDPC -/

@[simp] theorem length_totals (h : List (List Nat)) (rm : List (List Int)) (l : List Int) :
    (totals h rm l).length = l.length := by simp [totals]

@[simp] theorem length_hardDecisions (z : List Int) : (hardDecisions z).length = z.length := by
  simp [hardDecisions]

/-- What the decoder's loop ends with (R182, R183). -/
theorem ldpcLoop_spec (h : List (List Nat)) (l : List Int) (budget it : Nat) (rm : List (List Int)) :
    let r := ldpcLoop h l budget it rm
    r.errors = residualErrors h r.bits ∧ r.bits.length = l.length ∧ it ≤ r.iterations ∧
      r.iterations ≤ it + budget ∧ (r.errors ≠ 0 → r.iterations = it + budget) := by
  dsimp only
  induction budget generalizing it rm with
  | zero => simp [ldpcLoop]
  | succ b ih =>
    unfold ldpcLoop
    dsimp only
    split
    · rename_i h0
      exact ⟨h0.symm, by simp, le_refl _, by dsimp only; omega, fun he => absurd rfl he⟩
    · obtain ⟨h1, h2, h3, h4, h5⟩ := ih (it + 1) (nextMessages h (totals h rm l) rm)
      exact ⟨h1, h2, by omega, by omega, fun he => by rw [h5 he]; omega⟩

@[simp] theorem length_channelValues (s : State) : s.channelValues.length = 174 := by
  simp [State.channelValues]

/-- What a run of LDPC ends with (R182, R183). -/
theorem ldpcOutcome_spec (s : State) :
    s.ldpcOutcome.errors = residualErrors s.cfg.h s.ldpcOutcome.bits ∧
      s.ldpcOutcome.bits.length = 174 ∧ s.ldpcOutcome.iterations ≤ s.maxIter.toNat ∧
      (s.ldpcOutcome.errors ≠ 0 → s.ldpcOutcome.iterations = s.maxIter.toNat) := by
  have h := ldpcLoop_spec s.cfg.h s.channelValues s.maxIter.toNat 0
    (s.cfg.h.map fun row => row.map fun _ => 0)
  simp only [length_channelValues, Nat.zero_add] at h
  exact ⟨h.1, h.2.1, h.2.2.2.1, h.2.2.2.2⟩

/-- The residual errors of a packed decision are the checks that it fails (R183). -/
theorem residualErrors_eq (h : List (List Nat)) {bits : List Bool} {n : Nat} (hl : bits.length = n) :
    residualErrors h bits =
      h.countP fun row => (row.map fun i => (packBits n bits).getMsbD i).foldl xor false := by
  unfold residualErrors
  congr 1
  funext row
  unfold checkFails
  congr 1
  exact List.map_congr_left fun i _ => (getMsbD_packBits hl i).symm

/-! ### CHECK -/

/-- The packed payload by its register bits (R201). -/
theorem getLsbD_packPayload (hard : BitVec 174) (j : Nat) :
    (packPayload hard).getLsbD j =
      if j < 5 then false else decide (j - 5 < 91) && hard.getLsbD (83 + (j - 5)) := by
  have h : (packPayload hard).getLsbD j =
      if j < 5 then (0 : BitVec 5).getLsbD j else (hard.extractLsb' 83 91).getLsbD (j - 5) :=
    BitVec.getLsbD_append
  rw [h, BitVec.getLsbD_extractLsb']
  simp

/-- The packed payload: the first 91 hard bits, then zeros (R201). -/
theorem getMsbD_packPayload (hard : BitVec 174) (i : Nat) :
    (packPayload hard).getMsbD i = (decide (i < 91) && hard.getMsbD i) := by
  simp only [BitVec.getMsbD, getLsbD_packPayload]
  by_cases h : i < 91
  · simp [h, show i < 96 by omega, show i < 174 by omega, show ¬ 95 - i < 5 by omega,
      show 95 - i - 5 < 91 by omega, show 83 + (95 - i - 5) = 173 - i by omega]
  · simp [h, show 95 - i < 5 by omega]

/-- The packed payload ends in five zero bits (R201). -/
theorem tailZero_packPayload (hard : BitVec 174) : TailZero (packPayload hard) := by
  apply BitVec.eq_of_getLsbD_eq
  intro i hi
  simp [getLsbD_packPayload, hi]

end Sys2Proof.Machine
end

