-- ==== Sys2Proof/Laws/Safety.lean ====
section
/-! SUPPORT. The terms of the claims: commands as the host issues them, and the passes of LDPC. -/

namespace Sys2Proof.Machine

open Sys2Proof

/-- A command always completes, with what its body leaves. -/
theorem after_eq (i : Instr) (s : State) :
    after i s = (commandBody i s).out.completeWith (commandBody i s).code := by
  rw [after, exec_eq]

@[simp] theorem commandsUpTo_zero (s : State) :
    commandsUpTo s 0 = after .sync (after .clrres s) := rfl

theorem commandsUpTo_succ (s : State) (n : Nat) :
    commandsUpTo s (n + 1) = candidateByCommands (commandsUpTo s n) n := by
  simp [commandsUpTo, List.range_succ]

@[simp] theorem messagesAfter_zero (h : List (List Nat)) (l : List Int) :
    messagesAfter h l 0 = h.map fun row => row.map fun _ => 0 := rfl

theorem messagesAfter_succ (h : List (List Nat)) (l : List Int) (n : Nat) :
    messagesAfter h l (n + 1) =
      nextMessages h (totals h (messagesAfter h l n) l) (messagesAfter h l n) := rfl

theorem decisionAfter_eq (h : List (List Nat)) (l : List Int) (n i : Nat) :
    decisionAfter h l n i = (hardDecisions (totals h (messagesAfter h l n) l)).getD i false := by
  simp only [decisionAfter, hardDecisions, List.getD_eq_getElem?_getD, List.getElem?_map]
  cases (totals h (messagesAfter h l n) l)[i]? <;> rfl

/-- The loop of R175 from the messages after `it` iterations: it ends with the decision of the pass
after its last iteration, and every pass before had errors. -/
theorem ldpcLoop_passes (h : List (List Nat)) (l : List Int) (budget it : Nat) :
    let r := ldpcLoop h l budget it (messagesAfter h l it)
    r.bits = hardDecisions (totals h (messagesAfter h l r.iterations) l) ∧
      ∀ n, it ≤ n → n < r.iterations →
        residualErrors h (hardDecisions (totals h (messagesAfter h l n) l)) ≠ 0 := by
  induction budget generalizing it with
  | zero => exact ⟨rfl, fun n h1 h2 => absurd h2 (Nat.not_lt.2 h1)⟩
  | succ budget ih =>
    simp only [ldpcLoop]
    split
    · exact ⟨rfl, fun n h1 h2 => absurd h2 (Nat.not_lt.2 h1)⟩
    · rename_i he
      have hn := ih (it + 1)
      rw [messagesAfter_succ] at hn
      refine ⟨hn.1, fun n h1 h2 => ?_⟩
      rcases Nat.eq_or_lt_of_le h1 with rfl | h1
      · exact he
      · exact hn.2 n h1 h2

/-- LDPC decides on the pass after its last iteration, and every earlier pass had errors (R175, R183). -/
theorem ldpcOutcome_passes (s : State) :
    s.ldpcOutcome.bits = hardDecisions (totals s.cfg.h
        (messagesAfter s.cfg.h s.channelValues s.ldpcOutcome.iterations) s.channelValues) ∧
      ∀ n < s.ldpcOutcome.iterations, residualErrors s.cfg.h
        (hardDecisions (totals s.cfg.h (messagesAfter s.cfg.h s.channelValues n)
          s.channelValues)) ≠ 0 := by
  have h := ldpcLoop_passes s.cfg.h s.channelValues s.maxIter.toNat 0
  exact ⟨h.1, fun n hn => h.2 n (Nat.zero_le _) hn⟩

end Sys2Proof.Machine
end

