-- ==== Sys2Proof/Laws/Step.lean ====
section
/-! SUPPORT. What a host access and a step can do, said once each. -/

namespace Sys2Proof.Machine

open Sys2Proof

/-! ### The two host accesses -/

/-- A host read (R71, R73, R74, R78, R350): nothing while reset is asserted, the word there, or a
refusal that returns 0 and sets flags. -/
theorem hostRead_cases (a : Nat) (s : State) :
    (s.inReset = true ∧ hostRead a s = { s with readData := 0 }) ∨
    (s.inReset = false ∧ ∃ l, target s.cfg a = some l ∧ s.excludes a = false ∧
      hostRead a s = { s with readData := readLocation s l }) ∨
    (s.inReset = false ∧ (target s.cfg a = none ∨ s.excludes a = true) ∧
      hostRead a s =
        { s.refuseAccess (s.excludes a) (target s.cfg a).isNone false with readData := 0 }) := by
  cases hr : s.inReset
  · cases ht : target s.cfg a with
    | none =>
      exact .inr (.inr ⟨rfl, .inl rfl, by cases hx : s.excludes a <;> simp [hostRead, hr, ht, hx]⟩)
    | some l =>
      cases hx : s.excludes a
      · exact .inr (.inl ⟨rfl, l, rfl, rfl, by simp [hostRead, hr, ht, hx]⟩)
      · exact .inr (.inr ⟨rfl, .inr rfl, by simp [hostRead, hr, ht, hx]⟩)
  · exact .inl ⟨rfl, by simp [hostRead, hr]⟩

/-- A host write (R72, R73, R74, R78, R350): nothing while reset is asserted, the location's own rule,
or a refusal that sets flags and changes nothing else. -/
theorem hostWrite_cases (a : Nat) (v : Word) (s : State) :
    (s.inReset = true ∧ hostWrite a v s = s) ∨
    (s.inReset = false ∧ ∃ l, writeTarget s.cfg a = some l ∧ s.excludes a = false ∧
      hostWrite a v s = writeLocation v s l) ∨
    (s.inReset = false ∧ (writeTarget s.cfg a = none ∨ s.excludes a = true) ∧
      hostWrite a v s = s.refuseAccess (s.excludes a) (writeTarget s.cfg a).isNone
        (s.excludes a && a == cmdAddr)) := by
  cases hr : s.inReset
  · cases ht : writeTarget s.cfg a with
    | none =>
      exact .inr (.inr ⟨rfl, .inl rfl, by cases hx : s.excludes a <;> simp [hostWrite, hr, ht, hx]⟩)
    | some l =>
      cases hx : s.excludes a
      · exact .inr (.inl ⟨rfl, l, rfl, rfl, by simp [hostWrite, hr, ht, hx]⟩)
      · exact .inr (.inr ⟨rfl, .inr rfl, by simp [hostWrite, hr, ht, hx]⟩)
  · exact .inl ⟨rfl, by simp [hostWrite, hr]⟩

/-- A location a write may change is mapped there and writable (R72, R74). -/
theorem writeTarget_eq_some {p : Config.Params} {a : Nat} {l : Location} :
    writeTarget p a = some l ↔ a % 4 = 0 ∧ locate p a = some l ∧ l.writable = true := by
  simp only [writeTarget, target, Option.filter_eq_some_iff]
  by_cases h : a % 4 = 0 <;> simp [h]

/-- The address of a location (10_state.md, R74). -/
def Location.addr : Location → Nat
  | .id => 0x000
  | .cmd => 0x004
  | .status => 0x008
  | .ctrl => 0x00C
  | .minScore => 0x010
  | .maxCand => 0x014
  | .maxIter => 0x018
  | .syncMap => 0x01C
  | .grayMap => 0x020
  | .baseBin => 0x024
  | .slotSeq => 0x028
  | .timestamp => 0x02C
  | .valid => 0x030
  | .candCount => 0x034
  | .seq => 0x038
  | .ldpcStat => 0x03C
  | .crcStat => 0x040
  | .msgStat => 0x044
  | .resCount => 0x048
  | .geom0 => 0x04C
  | .geom1 => 0x050
  | .htInfo => 0x054
  | .htKeyIn => 0x058
  | .htKeyOut => 0x05C
  | .htLenIn => 0x060
  | .htLenOut => 0x064
  | .htTextIn w => 0x070 + 4 * w
  | .htTextOut w => 0x080 + 4 * w
  | .a91 w => 0x090 + 4 * w
  | .hard w => 0x0A0 + 4 * w
  | .msg w => 0x0C0 + 4 * w
  | .cl i w => 0x100 + 8 * i + 4 * w
  | .disp w => 0x300 + 4 * w
  | .llr w => 0x400 + 4 * w
  | .res r w => 0x800 + 128 * r + 4 * w
  | .pm w => 0x1000000 + 4 * w

/-- How many words a location's buffer has, so that its number `w` is below it (R74). -/
def Location.inBuffer (p : Config.Params) : Location → Prop
  | .htTextIn w => w < 4
  | .htTextOut w => w < 3
  | .a91 w => w < 3
  | .hard w => w < 6
  | .msg w => w < 13
  | .cl i w => i < 64 ∧ w < 2
  | .disp w => w < 16
  | .llr w => w < 87
  | .res r w => r < 6 ∧ w < 32
  | .pm w => w < p.pmWords
  | _ => True

/-- A control or status register stands at its own address (R30 to R42). -/
theorem controlLocation_addr {k : Nat} {l : Location} (h : controlLocation k = some l) :
    l.addr = 4 * k ∧ ∀ p, l.inBuffer p := by
  have hk : k < 26 := by
    by_contra hc
    simp only [controlLocation] at h
    rw [List.getElem?_eq_none (by simpa using hc)] at h
    cases h
  interval_cases k <;> cases h <;> exact ⟨rfl, fun _ => trivial⟩

/-- An aligned address that is mapped is the address of its location (R74). -/
theorem locate_addr {p : Config.Params} {a : Nat} {l : Location} (ha : a % 4 = 0)
    (h : locate p a = some l) : l.addr = a ∧ l.inBuffer p := by
  unfold locate at h
  by_cases h0 : a < 0x68
  · rw [if_pos h0] at h
    obtain ⟨e, hb⟩ := controlLocation_addr h
    exact ⟨by rw [e]; omega, hb p⟩
  rw [if_neg h0] at h
  by_cases h1 : a < 0x70
  · rw [if_pos h1] at h; cases h
  rw [if_neg h1] at h
  by_cases h2 : a < 0x80
  · rw [if_pos h2] at h; cases h; dsimp only [Location.addr, Location.inBuffer]; omega
  rw [if_neg h2] at h
  by_cases h3 : a < 0x8c
  · rw [if_pos h3] at h; cases h; dsimp only [Location.addr, Location.inBuffer]; omega
  rw [if_neg h3] at h
  by_cases h4 : a < 0x90
  · rw [if_pos h4] at h; cases h
  rw [if_neg h4] at h
  by_cases h5 : a < 0x9c
  · rw [if_pos h5] at h; cases h; dsimp only [Location.addr, Location.inBuffer]; omega
  rw [if_neg h5] at h
  by_cases h6 : a < 0xa0
  · rw [if_pos h6] at h; cases h
  rw [if_neg h6] at h
  by_cases h7 : a < 0xb8
  · rw [if_pos h7] at h; cases h; dsimp only [Location.addr, Location.inBuffer]; omega
  rw [if_neg h7] at h
  by_cases h8 : a < 0xc0
  · rw [if_pos h8] at h; cases h
  rw [if_neg h8] at h
  by_cases h9 : a < 0xf4
  · rw [if_pos h9] at h; cases h; dsimp only [Location.addr, Location.inBuffer]; omega
  rw [if_neg h9] at h
  by_cases h10 : a < 0x100
  · rw [if_pos h10] at h; cases h
  rw [if_neg h10] at h
  by_cases h11 : a < 0x300
  · rw [if_pos h11] at h; cases h; dsimp only [Location.addr, Location.inBuffer]; omega
  rw [if_neg h11] at h
  by_cases h12 : a < 0x340
  · rw [if_pos h12] at h; cases h; dsimp only [Location.addr, Location.inBuffer]; omega
  rw [if_neg h12] at h
  by_cases h13 : a < 0x400
  · rw [if_pos h13] at h; cases h
  rw [if_neg h13] at h
  by_cases h14 : a < 0x55c
  · rw [if_pos h14] at h; cases h; dsimp only [Location.addr, Location.inBuffer]; omega
  rw [if_neg h14] at h
  by_cases h15 : a < 0x800
  · rw [if_pos h15] at h; cases h
  rw [if_neg h15] at h
  by_cases h16 : a < 0xb00
  · rw [if_pos h16] at h; cases h; dsimp only [Location.addr, Location.inBuffer]; omega
  rw [if_neg h16] at h
  by_cases h17 : a < 0x1000000
  · rw [if_pos h17] at h; cases h
  rw [if_neg h17] at h
  by_cases h18 : a < 0x1000000 + 4 * p.pmWords
  · rw [if_pos h18] at h; cases h; dsimp only [Location.addr, Location.inBuffer]; omega
  · rw [if_neg h18] at h; cases h

/-- What acceptance of a command writes (R101, R306): `STATUS` and `SEQ`. -/
theorem accept_eq (w : Word) (s : State) :
    s.accept w = { s with
      running := some w, done := false, err := .ok, lastOp := opField w,
      phase := (s.accept w).phase, candIdx := (s.accept w).candIdx } := by
  unfold State.accept
  cases decode w with
  | error e => rfl
  | ok i => cases i <;> rfl

/-- `CAND_IDX` at acceptance: cleared by SYNC and DECODE, else unchanged (R306, R308). -/
theorem accept_candIdx (w : Word) (s : State) :
    (s.accept w).candIdx = s.candIdx ∨ (s.accept w).candIdx = 0 := by
  unfold State.accept
  cases decode w with
  | error e => exact .inl rfl
  | ok i => cases i <;> first | exact .inl rfl | exact .inr rfl

/-! ### One step -/

/-- A turn of the engine (R79, R104, R337, R350): nothing, a command run to its completion, or an
illegal word completed with `E_ILLEGAL`. -/
theorem engineTurn_cases {s t : State} (h : engineTurn s = .next t) :
    ((s.inReset = true ∨ s.running = none) ∧ t = s) ∨
    (s.inReset = false ∧ ∃ w i, s.running = some w ∧ decode w = .ok i ∧ exec i s = .next t) ∨
    (s.inReset = false ∧ ∃ w e, s.running = some w ∧ decode w = .error e ∧
      t = s.completeWith .illegal) := by
  cases hr : s.inReset
  · cases hw : s.running with
    | none =>
      simp only [engineTurn, hr, hw, Bool.false_eq_true, if_false, Host.Outcome.next.injEq] at h
      exact .inl ⟨.inr rfl, h.symm⟩
    | some w =>
      cases hd : decode w with
      | ok i =>
        simp only [engineTurn, hr, hw, hd, Bool.false_eq_true, if_false] at h
        exact .inr (.inl ⟨rfl, w, i, rfl, hd, h⟩)
      | error e =>
        simp only [engineTurn, hr, hw, hd, Bool.false_eq_true, if_false, Host.Outcome.next.injEq] at h
        exact .inr (.inr ⟨rfl, w, e, rfl, hd, h.symm⟩)
  · simp only [engineTurn, hr, if_true, Host.Outcome.next.injEq] at h
    exact .inl ⟨.inl rfl, h.symm⟩

/-- A step: the engine's turn when nothing waits, else the first waiting event (R79). -/
theorem step_cases {s t : State} (h : step s = .next t) :
    (s.inputs = [] ∧ engineTurn s = .next t) ∨
    ∃ e rest, s.inputs = e :: rest ∧
      ((∃ a, e = .read a ∧ t = hostRead a.toNat { s with inputs := rest }) ∨
       (∃ a v, e = .write a v ∧ t = hostWrite a.toNat v { s with inputs := rest }) ∨
       (e = .engine ∧ engineTurn { s with inputs := rest } = .next t) ∨
       (e = .assertReset ∧ t = { s with inputs := rest, inReset := true }) ∨
       (e = .releaseReset ∧ t = releaseReset { s with inputs := rest })) := by
  unfold step nextEvent at h
  cases hi : s.inputs with
  | nil => exact .inl ⟨rfl, by simpa [hi] using h⟩
  | cons e rest =>
    refine .inr ⟨e, rest, rfl, ?_⟩
    cases e with
    | read a => exact .inl ⟨a, rfl, by simpa [hi, eq_comm] using h⟩
    | write a v => exact .inr (.inl ⟨a, v, rfl, by simpa [hi, eq_comm] using h⟩)
    | engine => exact .inr (.inr (.inl ⟨rfl, by simpa [hi] using h⟩))
    | assertReset => exact .inr (.inr (.inr (.inl ⟨rfl, by simpa [hi, eq_comm] using h⟩)))
    | releaseReset => exact .inr (.inr (.inr (.inr ⟨rfl, by simpa [hi, eq_comm] using h⟩)))

end Sys2Proof.Machine
end

