-- ==== Sys2Proof/Laws/Unpack.lean ====
section
/-! SUPPORT. What the message-type dispatch and the field decoders of UNPACK can answer, and how long
their texts are (R236). -/

namespace Sys2Proof.Machine

open Sys2Proof

@[simp] theorem length_tableText (t : Text) (count v : Nat) : (tableText t count v).length = count := by
  simp [tableText]

/-- The message-type dispatch, format by format (R217). -/
theorem unpackMessage_cases (ht : List Slot) (m : BitVec 77) :
    (tagI3 m = 0 ∧ tagN3 m = 0 ∧ unpackMessage ht m = unpackFree m) ∨
    (tagI3 m = 0 ∧ tagN3 m = 5 ∧ unpackMessage ht m = unpackTelemetry m) ∨
    ((tagI3 m = 1 ∨ tagI3 m = 2) ∧ unpackMessage ht m = unpackStd ht m (tagI3 m)) ∨
    (tagI3 m = 4 ∧ unpackMessage ht m = unpackNonstd ht m) ∨
    (((tagI3 m = 0 ∧ tagN3 m ≠ 0 ∧ tagN3 m ≠ 5) ∨
        (tagI3 m ≠ 0 ∧ tagI3 m ≠ 1 ∧ tagI3 m ≠ 2 ∧ tagI3 m ≠ 4)) ∧
      unpackMessage ht m = .error .tag) := by
  simp only [unpackMessage, dispatchMessage]
  split
  · rename_i h; exact .inl ⟨h.1, h.2, rfl⟩
  · rename_i h0
    split
    · rename_i h; exact .inr (.inl ⟨h.1, h.2, rfl⟩)
    · rename_i h1
      split
      · rename_i h; exact .inr (.inr (.inl ⟨h, rfl⟩))
      · rename_i h2
        split
        · rename_i h; exact .inr (.inr (.inr (.inl ⟨h, rfl⟩)))
        · rename_i h3; exact .inr (.inr (.inr (.inr ⟨by omega, rfl⟩)))

/-- Free text that unpacks (R218). -/
theorem unpackFree_ok {m : BitVec 77} {r : Msg} (h : unpackFree m = .ok r) :
    bitField m 0 70 < 42 ^ 13 ∧ r = plainMsg (trim (tableText table42 13 (bitField m 0 70))) .free := by
  by_cases hlt : 42 ^ 13 ≤ bitField m 0 70
  · unfold unpackFree at h
    dsimp only at h
    rw [if_pos hlt] at h
    cases h
  · unfold unpackFree at h
    dsimp only at h
    rw [if_neg hlt, Except.ok.injEq] at h
    exact ⟨Nat.lt_of_not_le hlt, h.symm⟩

/-- Telemetry always unpacks (R219). -/
theorem unpackTelemetry_ok {m : BitVec 77} {r : Msg} (h : unpackTelemetry m = .ok r) :
    r = plainMsg ((digits 16 18 (bitField m 0 70)).map hexDigit) .telemetry :=
  (Except.ok.inj h).symm

/-- A standard message that unpacks: its three sub-fields decode (R220). -/
theorem unpackStd_ok {ht : List Slot} {m : BitVec 77} {i3 : Nat} {r : Msg}
    (h : unpackStd ht m i3 = .ok r) :
    ∃ a b t, call28 ht (bitField m 0 27) (m.getMsbD 28) i3 = .ok a ∧
      call28 ht (bitField m 29 56) (m.getMsbD 57) i3 = .ok b ∧
      third (bitField m 59 73) (m.getMsbD 58) = .ok t ∧
      r = stdMsg (bitField m 0 27) a b t (m.getMsbD 58) := by
  unfold unpackStd at h
  cases ha : call28 ht (bitField m 0 27) (m.getMsbD 28) i3 with
  | error e => simp [ha] at h
  | ok a =>
    cases hb : call28 ht (bitField m 29 56) (m.getMsbD 57) i3 with
    | error e => simp [ha, hb] at h
    | ok b =>
      cases ht : third (bitField m 59 73) (m.getMsbD 58) with
      | error e => simp [ha, hb, ht] at h
      | ok t =>
        simp only [ha, hb, ht, Except.ok.injEq] at h
        exact ⟨a, b, t, rfl, rfl, rfl, h.symm⟩

/-- A 28-bit callsign field, range by range (R221). -/
theorem call28_cases (ht : List Slot) (n : Nat) (ip : Bool) (i3 : Nat) :
    (n ≤ 2 ∧ call28 ht n ip i3 = .ok (token3 n, false)) ∨
    (3 ≤ n ∧ n ≤ 1002 ∧ call28 ht n ip i3 = .ok (cqNnn (n - 3), false)) ∨
    (1003 ≤ n ∧ n ≤ 532443 ∧ call28 ht n ip i3 = .ok (cqAaaa (n - 1003), false)) ∨
    (532444 ≤ n ∧ n < nTokens ∧ call28 ht n ip i3 = .error .token) ∨
    (nTokens ≤ n ∧ n < nTokens + max22 ∧ call28 ht n ip i3 = .ok (hashed22 ht (n - nTokens))) ∨
    (nTokens + max22 ≤ n ∧
      call28 ht n ip i3 = .ok (stdCall (n - nTokens - max22) ip i3, false)) := by
  have hn : nTokens = 2063592 := rfl
  have hm : max22 = 4194304 := rfl
  simp only [call28]
  by_cases h1 : n ≤ 2
  · exact .inl ⟨h1, if_pos h1⟩
  by_cases h2 : n ≤ 1002
  · exact .inr (.inl ⟨by omega, h2, by rw [if_neg h1, if_pos h2]⟩)
  by_cases h3 : n ≤ 532443
  · exact .inr (.inr (.inl ⟨by omega, h3, by rw [if_neg h1, if_neg h2, if_pos h3]⟩))
  by_cases h4 : n < nTokens
  · exact .inr (.inr (.inr (.inl ⟨by omega, h4, by
      rw [if_neg h1, if_neg h2, if_neg h3, if_pos h4]⟩)))
  by_cases h5 : n < nTokens + max22
  · exact .inr (.inr (.inr (.inr (.inl ⟨by omega, h5, by
      rw [if_neg h1, if_neg h2, if_neg h3, if_neg h4, if_pos h5]⟩))))
  · exact .inr (.inr (.inr (.inr (.inr ⟨by omega, by
      rw [if_neg h1, if_neg h2, if_neg h3, if_neg h4, if_neg h5]⟩))))

/-- The third field, range by range (R227). -/
theorem third_cases (g : Nat) (ir : Bool) :
    (g ≤ 32399 ∧ third g ir = .ok {
      text := if ir then ascii ['R', ' '] ++ locatorText g else locatorText g
      kind := if locatorText g = ascii ['R', 'R', '7', '3'] then .rr73 else .loc
      isGrid := true
      l1 := g / 100 % 18
      loc := locatorText g }) ∨
    ((g = 32400 ∨ 32535 ≤ g) ∧ third g ir = .error .report) ∨
    (g = 32401 ∧ third g ir = .ok (endField [] .blank)) ∨
    (g = 32402 ∧ third g ir = .ok (endField (ascii ['R', 'R', 'R']) .rrr)) ∨
    (g = 32403 ∧ third g ir = .ok (endField (ascii ['R', 'R', '7', '3']) .rr73)) ∨
    (g = 32404 ∧ third g ir = .ok (endField (ascii ['7', '3']) .k73)) ∨
    (32405 ≤ g ∧ g ≤ 32534 ∧ third g ir = .ok (
      if ir then endField (ascii ['R'] ++ report2 ((g : Int) - 32435)) .rrsl
      else endField (report2 ((g : Int) - 32435)) .rsl)) := by
  unfold third
  by_cases h0 : g ≤ 32399
  · exact .inl ⟨h0, if_pos h0⟩
  rw [if_neg h0]
  by_cases h1 : g = 32400
  · exact .inr (.inl ⟨.inl h1, if_pos h1⟩)
  rw [if_neg h1]
  by_cases h2 : g = 32401
  · exact .inr (.inr (.inl ⟨h2, if_pos h2⟩))
  rw [if_neg h2]
  by_cases h3 : g = 32402
  · exact .inr (.inr (.inr (.inl ⟨h3, if_pos h3⟩)))
  rw [if_neg h3]
  by_cases h4 : g = 32403
  · exact .inr (.inr (.inr (.inr (.inl ⟨h4, if_pos h4⟩))))
  rw [if_neg h4]
  by_cases h5 : g = 32404
  · exact .inr (.inr (.inr (.inr (.inr (.inl ⟨h5, if_pos h5⟩)))))
  rw [if_neg h5]
  by_cases h6 : g ≤ 32534
  · exact .inr (.inr (.inr (.inr (.inr (.inr ⟨by omega, h6, if_pos h6⟩)))))
  · exact .inr (.inl ⟨.inr (by omega), if_neg h6⟩)

/-- A nonstandard message that unpacks (R230). -/
theorem unpackNonstd_ok {ht : List Slot} {m : BitVec 77} {r : Msg} (h : unpackNonstd ht m = .ok r) :
    let call := trim (tableText table38 11 (bitField m 12 69))
    let hc := hashText (htFind12 ht (BitVec.ofNat 12 (bitField m 0 11)))
    bitField m 12 69 < 38 ^ 11 ∧ call ≠ [] ∧
    ((m.getMsbD 73 = true ∧ r = { Msg.zero with f1 := ascii ['C', 'Q'], f2 := call, kind := .cq }) ∨
     (m.getMsbD 73 = false ∧ r = { Msg.zero with
        f1 := if m.getMsbD 70 then call else hc.1
        f2 := if m.getMsbD 70 then hc.1 else call
        f3 := (nonstdEnd (bitField m 71 72)).1
        kind := classify (nonstdEnd (bitField m 71 72)).2 hc.2 false
        hashMiss := hc.2 })) := by
  dsimp only
  unfold unpackNonstd at h
  dsimp only at h
  by_cases h1 : 38 ^ 11 ≤ bitField m 12 69
  · rw [if_pos h1] at h
    cases h
  rw [if_neg h1] at h
  by_cases h2 : (trim (tableText table38 11 (bitField m 12 69))).length = 0
  · rw [if_pos h2] at h
    cases h
  rw [if_neg h2] at h
  refine ⟨Nat.lt_of_not_le h1, fun h0 => h2 (by rw [h0]; rfl), ?_⟩
  cases h4 : m.getMsbD 73
  · rw [if_neg (by simp [h4]), Except.ok.injEq] at h
    exact .inr ⟨rfl, h.symm⟩
  · rw [if_pos h4, Except.ok.injEq] at h
    exact .inl ⟨rfl, h.symm⟩

/-! ### Lengths (R236) -/

/-- Every text of the table fits. -/
abbrev TextsFit (ht : List Slot) : Prop := ∀ e ∈ ht, e.text.length ≤ 11

theorem length_hashText_find {ht : List Slot} (hv : TextsFit ht) (f : Slot → Bool) :
    (hashText (ht.find? f)).1.length ≤ 13 := by
  cases h : ht.find? f with
  | none => simp [hashText, hashMarker, ascii]
  | some e =>
    have := hv e (List.mem_of_find?_eq_some h)
    simp only [hashText, ascii, List.length_append, List.length_map, List.length_singleton]
    omega

theorem length_stdCall_le (v : Nat) (ip : Bool) (i3 : Nat) : (stdCall v ip i3).length ≤ 8 := by
  have h : (trim (stdChars v)).length ≤ 6 := length_trim_le (stdChars v)
  unfold stdCall
  dsimp only
  split
  · rw [List.length_append]; simp only [ascii, List.length_map, List.length_cons, List.length_nil]; omega
  · split
    · rw [List.length_append]; simp only [ascii, List.length_map, List.length_cons, List.length_nil]; omega
    · omega

theorem length_call28_le {ht : List Slot} (hv : TextsFit ht) {n : Nat} {ip : Bool} {i3 : Nat}
    {a : Text × Bool} (h : call28 ht n ip i3 = .ok a) : a.1.length ≤ 13 := by
  rcases call28_cases ht n ip i3 with ⟨-, e⟩ | ⟨-, -, e⟩ | ⟨-, -, e⟩ | ⟨-, -, e⟩ | ⟨-, -, e⟩ | ⟨-, e⟩
    <;> rw [e] at h
  · cases h
    dsimp only [token3]
    split <;> simp [ascii]
  · cases h
    simp [cqNnn, ascii]
  · cases h
    have := length_trim_le (tableText table27 4 (n - 1003))
    rw [length_tableText] at this
    dsimp only [cqAaaa]
    split
    · simp [ascii]
    · rw [List.length_append]
      simp only [ascii, List.length_map, List.length_cons, List.length_nil]
      omega
  · cases h
  · cases h
    exact length_hashText_find hv _
  · cases h
    exact (length_stdCall_le _ _ _).trans (by decide)

theorem length_report2 (r : Int) : (report2 r).length = 3 := by
  simp [report2, ascii]

theorem length_third_le {g : Nat} {ir : Bool} {t : ThirdField} (h : third g ir = .ok t) :
    t.text.length ≤ 6 := by
  rcases third_cases g ir with ⟨-, e⟩ | ⟨-, e⟩ | ⟨-, e⟩ | ⟨-, e⟩ | ⟨-, e⟩ | ⟨-, e⟩ | ⟨-, -, e⟩
    <;> rw [e] at h
  · cases h
    dsimp only
    split <;> simp [ascii, locatorText]
  · cases h
  · cases h; simp [endField]
  · cases h; simp [endField, ascii]
  · cases h; simp [endField, ascii]
  · cases h; simp [endField, ascii]
  · cases ir <;> cases h <;> simp [endField, ascii, length_report2]

/-- Every message fits its registers (R236). -/
theorem unpackMessage_bounded {ht : List Slot} (hv : TextsFit ht) {m : BitVec 77} {r : Msg}
    (h : unpackMessage ht m = .ok r) : r.Bounded := by
  rcases unpackMessage_cases ht m with ⟨-, -, e⟩ | ⟨-, -, e⟩ | ⟨-, e⟩ | ⟨-, e⟩ | ⟨-, e⟩ <;> rw [e] at h
  · rw [(unpackFree_ok h).2]
    have := length_trim_le (tableText table42 13 (bitField m 0 70))
    rw [length_tableText] at this
    constructor
    · dsimp only [plainMsg, Text.Fits]; omega
    · simp [plainMsg, Msg.zero]
    · simp [plainMsg, Msg.zero]
    · simp [plainMsg, Msg.zero]
  · rw [unpackTelemetry_ok h]
    constructor <;> simp [plainMsg, Msg.zero]
  · obtain ⟨a, b, t, ha, hb, ht', rfl⟩ := unpackStd_ok h
    have h1 := length_call28_le hv ha
    have h2 := length_call28_le hv hb
    have h3 := length_third_le ht'
    constructor
    · dsimp only [stdMsg, Text.Fits]; omega
    · dsimp only [stdMsg, Text.Fits]; omega
    · dsimp only [stdMsg, Text.Fits]; omega
    · dsimp only [stdMsg]
      intro hl
      rw [hl]
      rfl
  · have hl := length_trim_le (tableText table38 11 (bitField m 12 69))
    rw [length_tableText] at hl
    have hh : (hashText (htFind12 ht (BitVec.ofNat 12 (bitField m 0 11)))).1.length ≤ 13 :=
      length_hashText_find hv _
    rcases (unpackNonstd_ok h).2.2 with ⟨-, rfl⟩ | ⟨-, rfl⟩
    · constructor
      · simp [ascii]
      · dsimp only [Text.Fits]; omega
      · simp [Msg.zero]
      · simp [Msg.zero]
    · constructor
      · dsimp only [Text.Fits]; split <;> omega
      · dsimp only [Text.Fits]; split <;> omega
      · dsimp only [Text.Fits, nonstdEnd]
        split <;> simp [ascii]
      · simp [Msg.zero]
  · cases h

end Sys2Proof.Machine
end

