-- ==== Sys2Proof/Tests/Slice0.lean ====
section
/-! SUPPORT. Tests on fixed values, their expected results from `95_test_vectors.md` or worked out by
hand from the rule named, and for every obligation with hypotheses a witness that meets them. -/

namespace Sys2Proof.Tests

open Sys2Proof Sys2Proof.Machine

/-! ### Helpers -/

/-- The state a step ends in. -/
def stepped (s : State) : State :=
  match step s with
  | .next t => t
  | .fault _ => s
  | .refused _ => s

/-- The state after the host writes the command word `w` to `CMD` and the engine has had its turn. -/
def commanded (w : Word) (s : State) : State :=
  stepped (stepped { s with inputs := [.write 0x004 w, .engine] })

def k1abc : Text := ascii ['K', '1', 'A', 'B', 'C']
def w9xyz : Text := ascii ['W', '9', 'X', 'Y', 'Z']
def pj4 : Text := ascii ['P', 'J', '4', '/', 'K', '1', 'A', 'B', 'C']
def cqText : Text := ascii ['C', 'Q']
def fn42 : Text := ascii ['F', 'N', '4', '2']
def en37 : Text := ascii ['E', 'N', '3', '7']

/-- The hash table of section 2.5 of the test vectors. -/
def vectorTable : List Slot := [⟨0x2C8F4B, k1abc⟩, ⟨0x3CC50C, w9xyz⟩, ⟨0x15AE22, pj4⟩]

/-- What a payload unpacks to, or the reason it does not. -/
def unpacked (a : BitVec 96) : Msg × UFail :=
  match unpackMessage vectorTable (message77 a) with
  | .ok m => (m, .none)
  | .error e => (Msg.zero, e)

/-- A matrix with the listed cells written. -/
def painted (cells : List Nat) (f : Nat → Byte) : Memory := cells.map fun c => (c, f c)

/-- The geometry G1 of the test vectors: exactly two positions are searched. -/
def smallGrid : Config.Params := { Config.defaultParams with numBlocks := 79, numBins := 8 }

/-- The matrix of vector V2 with amplitude `a`. -/
def syncCell (a : Byte) (c : Nat) : Byte :=
  if c / 16 % 36 < 7 ∧ c / 8 % 2 = 0 ∧ c % 8 = syncTone 0x0AE10B (c / 16 % 36) then a else 0

def syncState (a : Byte) (cells : List Nat) : State :=
  { State.resetWith smallGrid with pm := painted cells (syncCell a) }

/-- The 336 cells of the 21 rows that SYNC reads in the geometry G1. -/
def syncRows : List Nat := (List.range 336).map fun c => c % 112 + 576 * (c / 112)

/-- Reset with a text operand for HTADD. -/
def withText (t : Text) : State :=
  { State.reset with
    htTextIn := t ++ List.replicate (16 - t.length) 0, htLenIn := BitVec.ofNat 5 t.length }

/-- Reset with the hash table of the test vectors. -/
def withTable (key : BitVec 22) : State := { State.reset with ht := vectorTable, htKeyIn := key }

/-- Reset with one candidate in the list. -/
def withCandidate (c : Candidate) : State :=
  { State.reset with candCount := 1, cl := c :: List.replicate 15 Candidate.zero }

/-- Reset with the flags of `VALID` as given. -/
def withValid (b : BitVec 4) : State := { State.reset with valid := Valid.ofBits b }

/-! ### Well-formedness and decoding: words written out from R100 and R103 -/

theorem test_wellFormed_refuses_wide_index : (Instr.extract 256).wellFormed = false := by decide

theorem test_decode_nop : decode 0b00000000000000000000000000000000 = .ok .nop := by rfl
theorem test_decode_sync : decode 0b00000000000000000000000000000001 = .ok .sync := by rfl
theorem test_decode_extract : decode 0b00000000000000001010010100000010 = .ok (.extract 165) := by
  rfl
theorem test_decode_ldpc : decode 0b00000000000000000000000000000011 = .ok .ldpc := by rfl
theorem test_decode_check : decode 0b00000000000000000000000000000100 = .ok .check := by rfl
theorem test_decode_unpack : decode 0b00000000000000000000000000000101 = .ok .unpack := by rfl
theorem test_decode_store : decode 0b00000000000000000000000000000110 = .ok .store := by rfl
theorem test_decode_decode : decode 0b00000000000000000000000000000111 = .ok .decode := by rfl
theorem test_decode_clrres : decode 0b00000000000000000000000000001000 = .ok .clrres := by rfl
theorem test_decode_htadd : decode 0b00000000000000000000000000010000 = .ok .htadd := by rfl
theorem test_decode_htlook : decode 0b00000000000000000000000000010001 = .ok .htlook := by rfl
theorem test_decode_htlook12 : decode 0b00000000000000000000000000010010 = .ok .htlook12 := by rfl

/-- V62, V63, V64 and the table row of EXTRACT. -/
theorem test_decode_refuses :
    decode 0x00010001 = .error .reservedBits ∧ decode 0x00000101 = .error .operandNotZero ∧
    decode 0x0000000F = .error .unknownOpcode ∧ decode 0x000000FF = .error .unknownOpcode ∧
    decodeTableWord 32 0xA502 = some (.extract 165) := by decide

/-! ### SYNC, EXTRACT, LDPC -/

/-- V2. -/
theorem test_sync_injected_signal :
    (let t := after .sync (syncState 100 syncRows)
     (t.candCount, candidateWord (t.candidate 0) 0, candidateWord (t.candidate 0) 1)) =
      (1, 0x000002BC, 0) := by decide +kernel

/-- V6: the list after six insertions, by (score, discovery number). -/
theorem test_sync_insertion_order :
    (([(50, 0), (70, 1), (50, 2), (60, 3), (50, 4), (70, 5)].map fun p : Nat × Nat =>
        ({ Candidate.zero with score := BitVec.ofNat 16 p.1, freqOffset := BitVec.ofNat 16 p.2 } :
          Candidate)).foldl (insertCandidate 3) []).map (fun c => c.freqOffset.toNat) = [1, 5, 3] := by
  decide

/-- V8 and V9: the three values of a symbol from its eight tone cells. -/
theorem test_extract_symbol :
    let value := fun (cells : List Int) => (List.range 3).map fun q =>
      llrBit q fun j => cells.getD (grayTone 0xF354C8 j) 0
    value [0, 0, 0, 0, 0, 0, 200, 0] = [200, -200, 200] ∧
    value [0, 0, 60, 90, 0, 0, 0, 0] = [-90, 90, -30] := by decide

/-- V66 and V12c. -/
theorem test_extract_errors :
    (commanded 0x00000002 State.reset).statusWord = 0x00020022 ∧
    (commanded 0x00000002 (withCandidate { Candidate.zero with timeOffset := 2 })).err = .geom := by
  decide +kernel

/-- V12: the small matrix, one iteration. -/
theorem test_ldpc_corrects :
    ldpcRun [[0, 1, 3, 4], [0, 2, 3, 5], [1, 2, 3, 6]] 10 [-10, -10, -10, 4, -10, -10, -10] =
      { bits := List.replicate 7 false, errors := 0, iterations := 1 } := by decide

/-- V15 and V65. -/
theorem test_ldpc_budget_and_order :
    ldpcRun [[0, 1, 3, 4], [0, 2, 3, 5], [1, 2, 3, 6]] 0 [-10, -10, -10, 4, -10, -10, -10] =
      { bits := [false, false, false, true, false, false, false], errors := 3, iterations := 0 } ∧
    (commanded 0x00000003 State.reset).statusWord = 0x00030032 := by decide +kernel

/-! ### CHECK, UNPACK -/

/-- The short checksums of section 2.4. -/
theorem test_crc14 :
    crc14 [true] = 0x2757 ∧ crc14 [true, false] = 0x29F9 ∧
    crc14 (List.replicate 14 true) = 0x0071 ∧
    crc14 (true :: List.replicate 14 false) = 0x27C4 := by decide +kernel

/-- V17 and V17b. -/
theorem test_check :
    let run := fun (a : BitVec 96) => after .check
      { withValid 2 with hard := a.extractLsb' 5 91 ++ (0 : BitVec 83) }
    (run 0x000000204DEF1A8A198965C0).crcStatWord = 0x8B2E0B2E ∧
    (run 0x800000204DEF1A8A198965C0).crcStatWord = 0x20D60B2E := by decide +kernel

/-- V20, V22, V26b, V27, V29b, V29c, V30, V33, V38. -/
theorem test_unpack_messages :
    unpacked 0x000000204DEF1A8A198965C0 =
      (⟨cqText, k1abc, fn42, .cq, false, true, 0x32344E46⟩, .none) ∧
    unpacked 0x0C293B804DEF1A9FAA0F0B00 =
      (⟨w9xyz, k1abc, ascii ['-', '1', '1'], .rsl, false, false, 0⟩, .none) ∧
    unpacked 0x0C293B804DEF1A9F9D4B0900 =
      (⟨w9xyz, k1abc, ascii ['R', 'R', '7', '3'], .rr73, false, false, 0⟩, .none) ∧
    unpacked 0xF3193F03D05AEE9690A0C880 =
      (⟨ascii ['<'] ++ w9xyz ++ ascii ['>'], pj4, ascii ['R', 'R', 'R'], .rrr, false, false, 0⟩,
        .none) ∧
    unpacked 0x09BDE3500FE8DA9FAB89F140 =
      (⟨k1abc, hashMarker, ascii ['-', '0', '5'], .unknown, true, false, 0⟩, .none) ∧
    unpacked 0x000000200FE8DA9FA44D44E0 = (⟨cqText, hashMarker, [], .cq, true, false, 0⟩, .none) ∧
    unpacked 0x63EDCEE2A4AE07F50007F160 =
      (⟨ascii ['T', 'N', 'X', ' ', 'B', 'O', 'B', ' ', '7', '3', ' ', 'G', 'L'], [], [], .free,
        false, false, 0⟩, .none) ∧
    unpacked 0x000000A04DEF1ACA198D2000 =
      (⟨ascii ['C', 'Q', ' ', '0', '0', '7'], k1abc ++ ascii ['/', 'R'], fn42, .cq, false, true,
        0x32344E46⟩, .none) ∧
    unpacked 0x12393F03D05AEE9691251740 =
      (⟨hashMarker, pj4, ascii ['R', 'R', '7', '3'], .unknown, true, false, 0⟩, .none) := by
  decide +kernel

/-- V39f, V39h, V39k, V39l, V39m, V39n, and the host view of V21. -/
theorem test_unpack_failures_and_header :
    ([0x00000000000000000 <<< 40 ||| 0x001DF960, 0x0081FDC04DEF1A9FA44F11E0,
      0x000000204DEF1A9FC5CAC320, 0x8932F3C8B002D94000033860, 0x000D3E50100BA56000213F00,
      0x00000000000000000025EFC0].map fun a : BitVec 96 => (unpacked a).2) =
      [.tag, .token, .report, .text, .call, .empty] ∧
    (let t := after .unpack
      { withValid 4 with ht := vectorTable, a91 := 0x09BDE3506149DC08564E2FA0 }
     ([0, 1, 2, 6, 7, 10, 12].map (msgWord t.msg), t.msgStatWord)) =
      ([0x22040505, 0x4241314B, 0x00000043, 0x59583957, 0x0000005A, 0x37334E45, 0x37334E45],
        0x00000110) := by decide +kernel

/-! ### STORE, CLRRES, NOP, DECODE -/

/-- The state of program P2 before its STORE. -/
def storeState : State :=
  { withValid 8 with
    cl := ⟨100, 3, 160, 1⟩ :: List.replicate 15 Candidate.zero, slotSeq := 42,
    timestamp := 0x12345678, a91 := 0x09BDE3506149DC08564E2FA0,
    msg := ⟨k1abc, w9xyz, en37, .loc, false, true, 0x37334E45⟩ }

/-- Program P2's record and its duplicate. -/
theorem test_store :
    (let t := after .store storeState
     (t.res.map fun r => [0, 13, 14, 15, 16, 17, 18, 20, 21].map (recordWord r), t.disp.head?)) =
      ([[0x22040505, 0x006403EB, 0x0003FFF6, 0x000100A0, 0x0000002A, 0x12345678, 0x50E3BD09,
        0xA02F4E56, 0]], some .stored) ∧
    (let t := after .store (after .store storeState)
     (t.resCount, t.disp.head?)) = (1, some .dup) := by decide +kernel

/-- V50 and V51. -/
theorem test_store_metrics :
    ([1785, 160, 155, 154, 100, 47, 40, 0, -20, -1785].map fun x : Int =>
        (levelOf (BitVec.ofInt 16 x)).toInt) = [0, 0, 0, -1, -10, -18, -20, -26, -30, -324] ∧
    [freqHzOf 0 160 0, freqHzOf 0 160 1, freqHzOf 32 208 0, freqHzOf 0 0 1, freqHzOf 0 10485 1,
      freqHzOf 0 10486 0] = [1000, 1003, 1500, 3, 65534, 1] := by decide

/-- V55. -/
theorem test_clrres :
    (let t := after .clrres (after .store storeState)
     (t.resCount, readLocation t (.res 0 0), t.disp.head?)) = (0, 0, some .stored) := by
  decide +kernel

/-- V60. -/
theorem test_nop : (commanded 0x00000000 State.reset).statusWord = 0x00000002 := by decide

/-- The four outcomes of program P4 from CHECK on, and the failed decoder: a clean run of LDPC on the
codewords of V20, V18 and V39f. -/
theorem test_decode_outcomes :
    (let outcome := fun (a : BitVec 96) (v : BitVec 4) =>
      (decodeCheck 0 { withValid v with hard := a.extractLsb' 5 91 ++ (0 : BitVec 83) }).out.disp.head?
     [outcome 0x000000204DEF1A8A198965C0 3, outcome 0x0C293B804DEF1A9FAA0F8B00 3,
      outcome 0x001DF960 3, outcome 0 1]) =
      [some .stored, some .crc, some .unpack, some .ldpc] := by decide +kernel

/-! ### The hash commands -/

/-- V40 and V41. -/
theorem test_htadd_keys :
    (commanded 0x00000010 (withText (ascii ['K', 'Q', '7', 'B', '/', 'I', 'D', 'A', 'H', 'O']))).htKeyOut
      = 0x000054CD ∧
    (after .htadd (withText (ascii [' ', ' ', 'k', '1', 'a', 'b', 'c', ' ']))).ht =
      [⟨0x2C8F4B, k1abc⟩] := by decide +kernel

/-- V44 and the end of program P1. -/
theorem test_htadd_rejects :
    (commanded 0x00000010 (withText (k1abc ++ ascii ['!']))).statusWord = 0x00100052 ∧
    (after .htadd (withText (ascii [' ', ' ', ' ']))).htKeyOut = 0xFFFFFFFF ∧
    (after .htadd (withText (k1abc ++ [0x09]))).err = .htInvalid := by decide +kernel

/-- V46 and V47. -/
theorem test_htlook :
    (after .htlook (withTable 0x2C8F4B)).htTextOut = k1abc ∧
    (after .htlook (withTable 0x000001)).htTextOut = [] := by decide

/-- V48, and the first of two slots with the same 12 bits. -/
theorem test_htlook12 :
    (after .htlook12 (withTable 0x000F31)).htTextOut = w9xyz ∧
    (after .htlook12 { withTable 0x3FF015 with
      ht := [⟨0x0054CD, k1abc⟩, ⟨0x0054CE, w9xyz⟩] }).htTextOut = k1abc := by decide

/-! ### The host port -/

/-- V70, V71, V72. -/
theorem test_host_refusals :
    (hostRead 0x000 State.reset).readData = 0x46543852 ∧
    (hostRead 0x011 State.reset).statusWord = 0x400 ∧
    (hostWrite 0x000 1 State.reset).statusWord = 0x400 := by decide

/-- V73, V74, V75. -/
theorem test_host_writes :
    (hostRead 0x014 (hostWrite 0x014 0xFFFFFFFF State.reset)).readData = 16 ∧
    (hostRead 0x098 (hostWrite 0x098 0xFFFFFFFF State.reset)).readData = 0xE0FFFFFF ∧
    (hostWrite 0x008 0x702 { State.reset with
      done := true, err := .seq, lastOp := 3, cmdDropped := true, busyAcc := true,
      badAcc := true }).statusWord = 0x00030030 := by decide

/-- V76 and V67. -/
theorem test_host_matrix_and_busy :
    (hostWrite 0x1000044 0x0000AB00 State.reset).pmAt 1 0 5 = 0xAB ∧
    (hostWrite 0x004 0 (State.reset.accept 1)).statusWord = 0x00010301 := by decide +kernel

/-- V12d, and program P2's bit order of `HARD`. -/
theorem test_host_layout :
    (hostRead 0x400 { State.reset with llr := BitVec.ofInt 16 (-100) :: 200 :: [] }).readData =
      0x00C8FF9C ∧
    (hostRead 0x0A0 { State.reset with hard := 0x09BDE350#32 ++ (0 : BitVec 142) }).readData =
      0x50E3BD09 := by decide +kernel

/-! ### Witnesses of the statements' hypotheses -/

theorem testMatrix_legal : Config.defaultParams.legalMatrix = true := by decide +kernel

theorem default_legal : Config.defaultParams.legal = true := by
  simp only [Config.Params.legal, testMatrix_legal]
  decide

theorem smallGrid_legal : smallGrid.legal = true := by
  simp only [Config.Params.legal, show smallGrid.legalMatrix = true from testMatrix_legal]
  decide

theorem resetWith_inv (p : Config.Params) (h : p.legal = true) (hc : 0 < p.candCap)
    (hm : (BitVec.ofNat 7 p.candCap).toNat ≤ p.candCap) : (State.resetWith p).Inv where
  legal := h
  cl := List.length_replicate
  disp := List.length_replicate
  llr := List.length_replicate
  htTextIn := List.length_replicate
  candCount := Nat.zero_le _
  maxCand := hm
  curCand := hc
  candIdx := Nat.zero_le _
  htLenIn := Nat.zero_le _
  a91 := rfl
  msg := ⟨Nat.zero_le _, Nat.zero_le _, Nat.zero_le _, fun _ => rfl⟩
  ldpcErrors := Nat.zero_le _
  resCount := Nat.zero_le _
  res := fun _ h => nomatch h
  htCount := Nat.zero_le _
  htKeys := List.nodup_nil
  ht := fun _ h => nomatch h
  htTextOut := Nat.zero_le _
  pm := rfl
  pmCells := fun _ h => nomatch h
  phase := fun _ => rfl

theorem reset_inv : State.reset.Inv := resetWith_inv _ default_legal (by decide) (by decide)

theorem smallGrid_inv : (State.resetWith smallGrid).Inv :=
  resetWith_inv _ smallGrid_legal (by decide) (by decide)

/-- Reset with events at the pins. -/
def withInputs (es : List Event) : State := { State.reset with inputs := es }

theorem withInputs_inv (es : List Event) : (withInputs es).Inv := { reset_inv with }

/-- The engine runs the command word `w`. -/
def running (w : Word) (es : List Event) : State :=
  { State.reset with running := some w, phase := .idle, inputs := es }

theorem running_inv (w : Word) (es : List Event) : (running w es).Inv :=
  { reset_inv with phase := fun _ => rfl }

theorem witness_DecodeOfEncodeGivesTheCommand : (Instr.extract 255).wellFormed = true := by decide

theorem witness_LegalWordIsTheWordOfItsCommand : decode 0x0000FF02 = .ok (.extract 255) := by rfl

/-- One witness for each kind of illegal word. -/
theorem witness_IllegalWordsRaiseIllegalAndChangeOnlyStatus :
    decode 0x00010000 = .error .reservedBits ∧ decode 0x00000013 = .error .unknownOpcode ∧
    decode 0x00000100 = .error .operandNotZero ∧
    ∀ w : Word, (withInputs [.write 0x004 w, .engine]).Inv ∧
      (withInputs [.write 0x004 w, .engine]).busy = false ∧
      (withInputs [.write 0x004 w, .engine]).inReset = false ∧
      (withInputs [.write 0x004 w, .engine]).inputs = [.write 0x004 w, .engine] :=
  ⟨rfl, rfl, rfl, fun _ => ⟨withInputs_inv _, rfl, rfl, rfl⟩⟩

/-- A command to run, and an idle engine, each with and without a waiting engine event. -/
theorem witness_StepAtTheEnginesTurnRunsTheDecodedCommand :
    (running 0x00000502 []).inReset = false ∧
    (running 0x00000502 []).running = some 0x00000502 ∧
    decode 0x00000502 = .ok (.extract 5) ∧ (running 0x00000502 []).inputs = [] ∧
    (running 0x00000502 [.engine]).inputs = [.engine] ∧
    (withInputs [.engine]).running = none ∧ (withInputs [.engine]).inputs = [.engine] ∧
    (withInputs []).inputs = [] := ⟨rfl, rfl, rfl, rfl, rfl, rfl, rfl, rfl⟩

/-- Both clauses, an idle and a busy block, and a legal and an illegal word. -/
theorem witness_CommandWriteIsAcceptedExactlyWhenIdle :
    (withInputs [.write 0x004 7]).busy = false ∧ (withInputs [.write 0x004 7]).inReset = false ∧
    decode 7 = .ok .decode ∧ decode 0xFFFFFFFF = .error .reservedBits ∧
    (running 7 [.write 0x004 1]).busy = true ∧
    (running 7 [.write 0x004 1]).inputs = [.write 0x004 1] := ⟨rfl, rfl, rfl, rfl, rfl, rfl⟩

theorem witness_EveryAcceptedCommandCompletes :
    (running 0xFFFFFFFF [.engine]).inReset = false ∧
    (running 0xFFFFFFFF [.engine]).running = some 0xFFFFFFFF ∧
    (running 0xFFFFFFFF [.engine]).inputs = [.engine] := ⟨rfl, rfl, rfl⟩

theorem witness_NoCommandWritesWhatOnlyTheHostWrites : ∃ t, exec .decode State.reset = .next t :=
  ⟨_, rfl⟩

theorem witness_CommandsIgnoreWhatHostAccessesWhileBusyChange :
    ∃ t, exec .sync State.reset = .next t := ⟨_, rfl⟩

theorem witness_ResetStateHoldsTheTablesValues :
    Config.defaultParams.legal = true ∧ smallGrid.legal = true := ⟨default_legal, smallGrid_legal⟩

theorem witness_ResetMeetsTheInvariants : smallGrid.legal = true := smallGrid_legal

theorem witness_EveryStepKeepsTheInvariant :
    (running 0x00000010 []).Inv ∧ ∃ t, step (running 0x00000010 []) = .next t :=
  ⟨running_inv _ _, _, rfl⟩

/-- The all-zero codeword and its message accepted, a record stored, and a command to run. -/
def acceptedState : State :=
  { State.reset with
    valid := Valid.ofBits 15, msg := { Msg.zero with kind := .free },
    res := [recordOf { State.reset with msg := { Msg.zero with kind := .free } } 0],
    running := some 6, inputs := [.engine] }

theorem zero_accepted : AcceptedPayload Config.defaultParams.h 0 :=
  ⟨by decide +kernel, 0, by decide +kernel, by decide⟩

theorem zero_message :
    unpackMessage [] (message77 0) = .ok { Msg.zero with kind := .free } := by rfl

theorem witness_EveryUntamperedStepKeepsAcceptance :
    acceptedState.Accepted ∧
    (∀ e, acceptedState.inputs.head? = some e → e.tampers = false) ∧
    ∃ t, step acceptedState = .next t := by
  refine ⟨⟨fun _ => ?_, fun _ => zero_accepted, fun _ => ⟨rfl, [], zero_message⟩, ?_⟩, ?_, _, rfl⟩
  · show IsCodeword Config.defaultParams.h 0
    decide +kernel
  · intro r h
    obtain rfl := List.mem_singleton.1 h
    exact ⟨zero_accepted, [], zero_message⟩
  · intro e h
    cases h
    rfl

theorem witness_ResetAbandonsEverything :
    (running 1 [.assertReset]).inputs = [.assertReset] ∧
    ({ running 1 [.releaseReset] with inReset := true } : State).inReset = true ∧
    ({ running 1 [.engine] with inReset := true } : State).inputs = [.engine] ∧
    ({ running 1 [] with inReset := true } : State).inputs = [] ∧
    ({ running 1 [.read 0] with inReset := true } : State).inputs = [.read 0] ∧
    ({ running 1 [.write 4 1] with inReset := true } : State).inputs = [.write 4 1] :=
  ⟨rfl, rfl, rfl, rfl, rfl, rfl⟩

theorem witness_NoStepChangesTheConfiguration :
    ∃ t, step (withInputs [.write 0x014 5]) = .next t := ⟨_, rfl⟩

/-- Both disjuncts: a reset of a table in use, and an HTADD. -/
theorem witness_OnlyHtaddAndResetChangeTheTable :
    (∃ t, step { withTable 0 with inReset := true, inputs := [.releaseReset] } = .next t ∧
      t.ht ≠ vectorTable) ∧
    ∃ t, step { withText k1abc with running := some 0x10 } = .next t ∧ t.ht ≠ [] :=
  ⟨⟨_, rfl, by decide⟩, _, rfl, by decide +kernel⟩

theorem exists_qualifying {s : State} (h : (after .sync s).candCount ≠ 0) :
    ∃ c, c ∈ qualifying (s.enterAt .sync 0) := by
  apply List.exists_mem_of_ne_nil
  intro he
  apply h
  simp [after, exec, execSync, syncBody, syncKept, he, BodyResult.finish, State.complete,
    State.completeWith]

theorem witness_SyncScoreIsBoundedAndFitsItsField :
    ∃ c, c ∈ qualifying ((syncState 100 syncRows).enterAt .sync 0) :=
  exists_qualifying fun h => by
    have ht := congrArg Prod.fst test_sync_injected_signal
    exact absurd (ht.symm.trans h) (by decide)

/-- The first and the last position of a search, and one beyond each end. -/
theorem witness_SyncSearchesEveryPositionInsideTheMatrixInOrder :
    (0, 0, 0) ∈ searchPositions Config.defaultParams ∧
    (1, 1, 24) ∈ searchPositions Config.defaultParams ∧
    (0, 2, 0) ∉ searchPositions Config.defaultParams ∧
    (0, 0, 25) ∉ searchPositions Config.defaultParams := by decide +kernel

theorem painted_lookup (cells : List Nat) (f : Nat → Byte) (c : Nat) (h : c ∈ cells) :
    (painted cells f).lookup c = some (f c) := by
  induction cells with
  | nil => cases h
  | cons a l ih =>
    by_cases e : a = c
    · simp [painted, Memory.lookup, e]
    · simpa [painted, Memory.lookup, e] using ih (by simpa [Ne.symm e] using h)

theorem syncState_pmAt (a : Byte) (cells : List Nat) (row fs bin : Nat)
    (h : cellIndex smallGrid row fs bin ∈ cells) :
    (syncState a cells).pmAt row fs bin = (syncCell a (cellIndex smallGrid row fs bin)).toNat := by
  have hp : (syncState a cells).pm = painted cells (syncCell a) := rfl
  have hg : (syncState a cells).cfg = smallGrid := rfl
  simp only [State.pmAt, State.pmCell, hp, hg, painted_lookup _ _ _ h, Option.getD_some]

theorem syncState_expected (a : Byte) : ∀ b < 3, ∀ k < 7,
    (syncState a (List.range 1264)).pmAt (0 + (36 * b + k) * smallGrid.timeOsr) 0
      (0 + syncTone 0x0AE10B k) = a.toNat := by
  intro b hb k hk
  have hi : ∀ b < 3, ∀ k < 7, cellIndex smallGrid (0 + (36 * b + k) * smallGrid.timeOsr) 0
      (0 + syncTone 0x0AE10B k) < 1264 ∧
      (let c := cellIndex smallGrid (0 + (36 * b + k) * smallGrid.timeOsr) 0
        (0 + syncTone 0x0AE10B k)
       c / 16 % 36 < 7 ∧ c / 8 % 2 = 0 ∧ c % 8 = syncTone 0x0AE10B (c / 16 % 36)) := by
    decide +kernel
  rw [syncState_pmAt _ _ _ _ _ (List.mem_range.2 (hi b hb k hk).1), syncCell, if_pos (hi b hb k hk).2]

/-- A cell of the geometry G1 is in range, and it is painted only if it is an expected one. -/
def cellSound (row fs bin : Nat) : Bool :=
  let c := cellIndex smallGrid row fs bin
  decide (c < 1264) &&
    (!decide (c / 16 % 36 < 7 ∧ c / 8 % 2 = 0 ∧ c % 8 = syncTone 0x0AE10B (c / 16 % 36)) ||
      decide (row / 36 < 3 ∧ row % 36 < 7 ∧ fs = 0 ∧
        row = 0 + (36 * (row / 36) + row % 36) * smallGrid.timeOsr ∧
        bin = 0 + syncTone 0x0AE10B (row % 36)))

theorem syncState_elsewhere (a : Byte) : ∀ row fs bin, row < smallGrid.numRows → fs < 2 →
    bin < smallGrid.numBins →
    (∀ b < 3, ∀ k < 7, ¬ (fs = 0 ∧ row = 0 + (36 * b + k) * smallGrid.timeOsr ∧
      bin = 0 + syncTone 0x0AE10B k)) →
    (syncState a (List.range 1264)).pmAt row fs bin = 0 := by
  intro row fs bin hr hf hb hn
  have hi : ∀ row < 79, ∀ fs < 2, ∀ bin < 8, cellSound row fs bin = true := by decide +kernel
  have h := hi row hr fs hf bin hb
  simp only [cellSound, Bool.and_eq_true, decide_eq_true_eq, Bool.or_eq_true,
    Bool.not_eq_true', decide_eq_false_iff_not] at h
  rw [syncState_pmAt _ _ _ _ _ (List.mem_range.2 h.1), syncCell, if_neg]
  · rfl
  · rcases h.2 with h2 | ⟨hb, hk, he⟩
    · exact h2
    · exact absurd he (hn _ hb _ hk)

/-- `A = 6`, the smallest amplitude that the reset `MIN_SCORE` admits. -/
theorem witness_InjectedSyncPatternHasThePeakScore :
    let s := syncState 6 (List.range 1264)
    s.cfg.legal = true ∧ (0, 0, 0) ∈ searchPositions s.cfg ∧ 1 ≤ 6 ∧ 6 ≤ 255 ∧
    (∀ b < 3, ∀ k < 7,
      s.pmAt (0 + (36 * b + k) * s.cfg.timeOsr) 0 (0 + syncTone s.syncMap k) = 6) ∧
    (∀ row fs bin, row < s.cfg.numRows → fs < 2 → bin < s.cfg.numBins →
      (∀ b < 3, ∀ k < 7, ¬ (fs = 0 ∧ row = 0 + (36 * b + k) * s.cfg.timeOsr ∧
        bin = 0 + syncTone s.syncMap k)) → s.pmAt row fs bin = 0) ∧
    (1, 0, 0) ∈ searchPositions s.cfg ∧ s.minScore.toInt = 40 ∧ s.minScore.toInt ≤ 7 * 6 ∧
    1 ≤ s.maxCand.toNat :=
  ⟨smallGrid_legal, by decide +kernel, by decide, by decide, syncState_expected 6,
    syncState_elsewhere 6, by decide +kernel, by decide, by decide, by decide⟩

/-- The last candidate in range, at both of its bounds. -/
theorem witness_ExtractGivesTheMaxLogDifferences :
    let s := withCandidate { Candidate.zero with timeOffset := 1, freqOffset := 24, freqSub := 1 }
    0 < s.candCount.toNat ∧ inRange s.cfg (s.candidate 0) = true := by decide

/-- Both disjuncts, the first at its bound. -/
theorem witness_ExtractBeyondTheListRaisesOperand :
    State.reset.Inv ∧ State.reset.candCount.toNat ≤ 0 ∧ 64 ≤ 64 :=
  ⟨reset_inv, by decide, by decide⟩

/-- One witness inside at the bounds, and one outside past each of the three bounds. -/
theorem witness_ExtractOutsideTheMatrixRaisesGeom :
    let inside := fun (c : Candidate) =>
      0 < (withCandidate c).candCount.toNat ∧ 0 ≤ c.timeOffset.toInt ∧
      c.timeOffset.toInt ≤ (Config.defaultParams.numRows : Int) - 1 - 78 * Config.defaultParams.timeOsr ∧
      (c.freqOffset.toNat : Int) ≤ (Config.defaultParams.numBins : Int) - 8
    inside { Candidate.zero with timeOffset := 1, freqOffset := 24 } ∧
    ¬ inside { Candidate.zero with timeOffset := 2 } ∧
    ¬ inside { Candidate.zero with timeOffset := 0xFFFF } ∧
    ¬ inside { Candidate.zero with freqOffset := 25 } := by decide

/-- `LLR[0] = 100` and `MAX_ITER = 0`: a run that leaves errors. -/
def ldpcState : State :=
  { withValid 1 with llr := 100 :: List.replicate 173 (BitVec.ofInt 16 (-100)), maxIter := 0 }

theorem ldpcState_errors : ldpcState.ldpcOutcome.errors ≠ 0 := by
  rw [(ldpcOutcome_spec ldpcState).1]
  refine Nat.pos_iff_ne_zero.1 (List.countP_pos_iff.2 ⟨[0, 8, 91], ?_, ?_⟩)
  · show [0, 8, 91] ∈ Config.testMatrix
    decide
  · decide +kernel

theorem witness_LdpcReportsTheErrorsOfItsHardDecision :
    ldpcState.cfg.legal = true ∧ ldpcState.valid.llrRdy = true ∧
    ldpcState.ldpcOutcome.errors ≠ 0 ∧ ldpcState.channelValues.length = 174 ∧
    ∀ i < 174, ldpcState.channelValues.getD i 0 = max (-2047) (min 2047 (ldpcState.llrAt i)) :=
  ⟨default_legal, rfl, ldpcState_errors, by decide +kernel, by decide +kernel⟩

theorem witness_LdpcStopsAtOnceOnAChannelCodeword :
    (withValid 1).valid.llrRdy = true ∧ IsCodeword (withValid 1).cfg.h 0 ∧
    ∀ i < 174, (0 : BitVec 174).getMsbD i = decide (0 < (withValid 1).llrAt i) :=
  ⟨rfl, by decide +kernel, by decide +kernel⟩

theorem witness_LdpcMessagesStayWithinSaturation :
    (∀ v ∈ [(2047 : Int), -2047], |v| ≤ 2047) ∧
    ∀ msgs ∈ [[(2047 : Int), -2047]], ∀ r ∈ msgs, |r| ≤ 2047 := by decide

theorem witness_CheckMessageFollowsItsOtherEdges :
    (let h := [[0, 1]]
     let rm : List (List Int) := [[5, -5]]
     0 < h.length ∧ 0 < rm.length ∧ (rm.getD 0 []).length = (h.getD 0 []).length ∧
     1 < (h.getD 0 []).length ∧ 1 < [(7 : Int), 7].length) ∧
    [(3 : Int), -2] ≠ [] ∧ (0 : Int) ∈ [(3 : Int), 0] ∧ (0 : Int) ≤ 0 := by
  decide

theorem witness_CheckPacksAndComparesThePayload : (withValid 2).valid.cwOk = true := by rfl

/-- V17's payload, flipped at the first message bit and at the last checksum bit. -/
theorem witness_CheckDetectsEverySingleBitFlip :
    let a : BitVec 96 := 0x000000204DEF1A8A198965C0
    embeddedCrc a = computedCrc a ∧
    (∀ k < 96, (0x800000204DEF1A8A198965C0 : BitVec 96).getMsbD k =
      (if k = 0 then !a.getMsbD k else a.getMsbD k)) ∧
    ∀ k < 96, (0x000000204DEF1A8A198965E0 : BitVec 96).getMsbD k =
      (if k = 90 then !a.getMsbD k else a.getMsbD k) := by decide +kernel

/-- A payload that unpacks and one that does not. -/
theorem witness_UnpackWritesTheMessageOrTheReason :
    (withValid 4).valid.payOk = true ∧
    (unpacked 0x000000204DEF1A8A198965C0).2 = .none ∧ (unpacked 0x001DF960).2 = .tag := by
  decide +kernel

/-- The digits of the least and of the greatest free text, the first value beyond (V39l), and a
telemetry message (V31). -/
theorem witness_FreeTextAndTelemetryAreTheirDigits :
    (List.replicate 13 0).foldl (fun n d => 42 * n + d) 0 = bitField (0 : BitVec 77) 0 70 ∧
    (let m := message77 0x8932F3C8B002D93FFE005040
     bitField m 74 76 = 0 ∧ bitField m 71 73 = 0 ∧ (∀ d ∈ List.replicate 13 41, d < 42) ∧
     bitField m 0 70 = (List.replicate 13 41).foldl (fun n d => 42 * n + d) 0) ∧
    (let m := message77 0x8932F3C8B002D94000033860
     bitField m 74 76 = 0 ∧ bitField m 71 73 = 0 ∧ 42 ^ 13 ≤ bitField m 0 70) ∧
    (let m := message77 0x2468ACF13579BDE025432340
     bitField m 74 76 = 0 ∧ bitField m 71 73 = 5) := by decide +kernel

theorem witness_StandardCallsignIsItsMixedRadixDigits :
    36 < 37 ∧ 35 < 36 ∧ 9 < 10 ∧ 26 < 27 := by decide

/-- V39m, V39n, V27 with the base-38 digits of `PJ4/K1ABC`, V28 and V38: every clause. -/
theorem witness_NonstandardMessageFollowsItsFields :
    let ds := [26, 20, 5, 37, 21, 2, 11, 12, 13, 0, 0]
    let isCall := fun (m : BitVec 77) =>
      bitField m 74 76 = 4 ∧ bitField m 12 69 ≠ 0 ∧ ∃ k < 3, bitField m 12 69 =
        (List.replicate k 0 ++ ds.take (11 - k)).foldl (fun n d => 38 * n + d) 0
    (let m := message77 0x000D3E50100BA56000213F00
     bitField m 74 76 = 4 ∧ 38 ^ 11 ≤ bitField m 12 69) ∧
    (let m := message77 0x25EFC0
     bitField m 74 76 = 4 ∧ bitField m 12 69 = 0) ∧
    ds.length = 11 ∧ (∀ d ∈ ds, d < 38) ∧
    isCall (message77 0xF3193F03D05AEE9690A0C880) ∧
    (message77 0xF3193F03D05AEE9690A0C880).getMsbD 73 = false ∧
    isCall (message77 0xF3193F03D05AEE9690657DC0) ∧
    (message77 0xF3193F03D05AEE9690657DC0).getMsbD 73 = true ∧
    isCall (message77 0x12393F03D05AEE9691251740) := by decide +kernel

theorem witness_ThirdFieldFollowsTheRangesOfG15 :
    17 < 18 ∧ 9 < 10 ∧ (-30 : Int) ≤ -30 ∧ (99 : Int) ≤ 99 ∧ 32535 ≤ 32535 := by decide

theorem witness_CallsignFieldFollowsTheRangesOfN28 :
    9 < 10 ∧ 26 < 27 ∧ 0 < 0 + 0 + 0 + 1 ∧ 532444 ≤ 532444 ∧ 2063591 ≤ 2063591 ∧
    6257896 ≤ 6257896 := by decide

/-- Whether a decoding answers a value. -/
def answers {α : Type} [DecidableEq α] (r : Except UFail α) (x : α) : Bool :=
  match r with
  | .ok y => decide (y = x)
  | .error _ => false

theorem eq_ok_of_answers {α : Type} [DecidableEq α] {r : Except UFail α} {x : α}
    (h : answers r x = true) : r = .ok x := by
  cases r with
  | ok y => exact congrArg _ (of_decide_eq_true h)
  | error e => cases h

/-- Whether a decoding fails with a reason. -/
def failsWith {α : Type} (r : Except UFail α) (e : UFail) : Bool :=
  match r with
  | .ok _ => false
  | .error x => decide (x = e)

theorem eq_error_of_failsWith {α : Type} {r : Except UFail α} {e : UFail}
    (h : failsWith r e = true) : r = .error e := by
  cases r with
  | ok y => cases h
  | error x => exact congrArg _ (of_decide_eq_true h)

/-- V20; V39h, a first field that fails; `CQ` and a second field 532444 that fails; V39j, a third. -/
theorem witness_StandardMessageIsClassifiedInOrder :
    let first := fun (m : BitVec 77) =>
      call28 vectorTable (bitField m 0 27) (m.getMsbD 28) (bitField m 74 76)
    let second := fun (m : BitVec 77) =>
      call28 vectorTable (bitField m 29 56) (m.getMsbD 57) (bitField m 74 76)
    let last := fun (m : BitVec 77) => third (bitField m 59 73) (m.getMsbD 58)
    (let m := message77 0x000000204DEF1A8A198965C0
     bitField m 74 76 = 1 ∧ first m = .ok (cqText, false) ∧ second m = .ok (k1abc, false) ∧
     last m = .ok { text := fn42, kind := .loc, isGrid := true, l1 := 13, loc := fn42 }) ∧
    (let m := message77 0x0081FDC04DEF1A9FA44F11E0
     bitField m 74 76 = 1 ∧ first m = .error .token) ∧
    (let m := BitVec.ofNat 77 (2 * 2 ^ 49 + 532444 * 2 ^ 20 + 1)
     bitField m 74 76 = 1 ∧ first m = .ok (cqText, false) ∧ second m = .error .token) ∧
    (let m := message77 0x000000204DEF1A9FA409B0E0
     bitField m 74 76 = 1 ∧ first m = .ok (cqText, false) ∧ second m = .ok (k1abc, false) ∧
     last m = .error .report) :=
  ⟨⟨by decide, eq_ok_of_answers (by decide +kernel), eq_ok_of_answers (by decide +kernel),
    eq_ok_of_answers (by decide +kernel)⟩,
   ⟨by decide, eq_error_of_failsWith (by decide +kernel)⟩,
   ⟨by decide, eq_ok_of_answers (by decide +kernel), eq_error_of_failsWith (by decide +kernel)⟩,
   ⟨by decide, eq_ok_of_answers (by decide +kernel), eq_ok_of_answers (by decide +kernel),
    eq_error_of_failsWith (by decide +kernel)⟩⟩

/-- A message of each of the three groups of formats: V20, V28, V30. -/
theorem witness_CqIsTheKindExactlyWhenTheDestinationIsCq :
    let ok := fun (a : BitVec 96) (i3 : Nat) =>
      (unpacked a).2 = .none ∧ bitField (message77 a) 74 76 = i3
    ok 0x000000204DEF1A8A198965C0 1 ∧ ok 0xF3193F03D05AEE9690657DC0 4 ∧
    ok 0x63EDCEE2A4AE07F50007F160 0 := by decide +kernel

/-- A new key, and (with `K1ABC` in the table) a key that is there. -/
theorem witness_HtaddStoresAValidText :
    k1abc.length ≤ 11 ∧ (∀ b ∈ k1abc, b ∈ table38) ∧
    (let s := withText (ascii ['K', 'Q', '7', 'B', '/', 'I', 'D', 'A', 'H', 'O'])
     validCallsign s.htTextOperand = true ∧ s.ht.length ≠ s.cfg.htCap ∧
     ∀ e ∈ s.ht, e.key ≠ hash22 s.htTextOperand) ∧
    (let s := { withText k1abc with ht := vectorTable }
     validCallsign s.htTextOperand = true ∧ ∃ e ∈ s.ht, e.key = hash22 s.htTextOperand) := by
  decide +kernel

/-- Length 0, length 12, a bad byte, and a full table. -/
theorem witness_HtaddRejectsWithTheSentinel :
    (withText []).htTextOperand.length < 1 ∧
    11 < (withText (List.replicate 12 0x41)).htTextOperand.length ∧
    (∃ b ∈ (withText [0x21]).htTextOperand, b ∉ table38) ∧
    (let s := { withText pj4 with
       ht := [⟨1, [0x41]⟩], cfg := { Config.defaultParams with htCap := 1 } }
     validCallsign s.htTextOperand = true ∧ (∀ e ∈ s.ht, e.key ≠ hash22 s.htTextOperand) ∧
     s.ht.length = s.cfg.htCap) := by decide +kernel

/-- Two spaces, `k1abc` and a space, in a table with room; and a text of spaces only. -/
theorem witness_HtaddNormalisesItsText :
    let mid := ascii ['k', '1', 'a', 'b', 'c']
    let s := withText ([0x20, 0x20] ++ mid ++ [0x20])
    (∀ b ∈ [0x20, 0x20] ++ [(0x20 : Byte)], b = 0x20) ∧
    mid.head? ≠ some 0x20 ∧ mid.getLast? ≠ some 0x20 ∧
    s.htTextIn.take s.htLenIn.toNat = [0x20, 0x20] ++ mid ++ [0x20] ∧
    1 ≤ k1abc.length ∧ k1abc.length ≤ 11 ∧ (∀ b ∈ k1abc, b ∈ table38) ∧
    s.ht.length < s.cfg.htCap ∧ ([] : Text).head? ≠ some 0x20 ∧
    (withText [0x20]).htTextIn.take (withText [0x20]).htLenIn.toNat = [0x20] ++ [] ++ [] := by
  decide +kernel

theorem witness_LookupAfterAddReturnsTheText :
    ∃ t u, exec .htadd (withText k1abc) = .next t ∧ t.err = .ok ∧
      exec .htlook { t with htKeyIn := t.htKeyOut.setWidth 22 } = .next u :=
  ⟨_, _, rfl, by decide +kernel, rfl⟩

/-- A key that is in the table, with none before it, for both commands. -/
theorem witness_LookupsReturnTheEarliestMatchingSlot :
    let s := withTable 0x3CC50C
    (∃ e, s.ht[1]? = some e ∧ e.key = s.htKeyIn ∧
      ∀ j < 1, ∀ e' ∈ s.ht[j]?, e'.key ≠ s.htKeyIn) ∧
    (∃ e, (withTable 3889).ht[1]? = some e ∧
      e.key.toNat / 2 ^ 10 = (withTable 3889).htKeyIn.toNat % 2 ^ 12) ∧
    (∀ e ∈ (withTable 0).ht, e.key ≠ (withTable 0).htKeyIn) ∧
    ∀ e ∈ (withTable 0).ht, e.key.toNat / 2 ^ 10 ≠ (withTable 0).htKeyIn.toNat % 2 ^ 12 :=
  ⟨⟨_, rfl, rfl, by decide⟩, ⟨_, rfl, by decide⟩, by decide, by decide⟩

/-- The record of the all-zero message. -/
def zeroRecord : Record := recordOf State.reset 0

theorem stored_inv (n : Nat) (h : n ≤ 6) (v : BitVec 4) (m : Msg) (hm : m.Bounded) :
    ({ withValid v with res := List.replicate n zeroRecord, msg := m } : State).Inv :=
  { reset_inv with
    msg := hm
    resCount := by simpa using h
    res := fun r hr => by
      obtain rfl := List.eq_of_mem_replicate hr
      exact ⟨⟨Nat.zero_le _, Nat.zero_le _, Nat.zero_le _, fun _ => rfl⟩, rfl⟩ }

/-- A duplicate in a full store, a new text in a full store, and one in a store with room. -/
theorem witness_StoreAppendsUnlessDuplicateOrFull :
    let dup : State := { withValid 8 with res := List.replicate 6 zeroRecord, msg := Msg.zero }
    let full : State := { withValid 8 with
      res := List.replicate 6 zeroRecord, msg := { Msg.zero with f1 := cqText } }
    let room : State := { withValid 8 with
      res := List.replicate 5 zeroRecord, msg := { Msg.zero with f1 := cqText } }
    dup.Inv ∧ full.Inv ∧ room.Inv ∧ dup.valid.msgOk = true ∧
    (∃ r ∈ dup.res, r.msg.f1 ++ [0x20] ++ r.msg.f2 ++ [0x20] ++ r.msg.f3 =
      dup.msg.f1 ++ [0x20] ++ dup.msg.f2 ++ [0x20] ++ dup.msg.f3) ∧
    full.res.length = 6 ∧ room.res.length < 6 ∧
    ∀ r ∈ full.res, r.msg.f1 ++ [0x20] ++ r.msg.f2 ++ [0x20] ++ r.msg.f3 ≠
      full.msg.f1 ++ [0x20] ++ full.msg.f2 ++ [0x20] ++ full.msg.f3 := by
  refine ⟨stored_inv 6 (by decide) _ _ ?_, stored_inv 6 (by decide) _ _ ?_,
    stored_inv 5 (by decide) _ _ ?_, rfl, by decide, rfl, by decide, by decide⟩ <;>
    exact ⟨by decide, by decide, by decide, fun _ => rfl⟩

theorem witness_LevelAndFrequencyFollowTheirFormulas :
    (160 : BitVec 16).toInt ≤ 160 ∧
    2 * ((0 : BitVec 16).toNat + (10485 : BitVec 16).toNat) + (1 : BitVec 1).toNat ≤ 20971 := by
  decide

theorem witness_NopOnlyCompletes :
    (withInputs [.write 0x004 0x00000000, .engine]).Inv ∧
    (withInputs [.write 0x004 0x00000000, .engine]).busy = false ∧
    (withInputs [.write 0x004 0x00000000, .engine]).phase = .idle := ⟨withInputs_inv _, rfl, rfl⟩

/-- Every stage with its flag clear, and a command that then raises `E_SEQ`. -/
theorem witness_StagesRequireTheirInputFlag :
    State.reset.valid = Valid.clear ∧ State.reset.Inv ∧
    ∃ t, exec .store State.reset = .next t ∧ t.err = .seq := ⟨rfl, reset_inv, _, rfl, rfl⟩

theorem witness_DecodeIsTheSequenceOfStageCommands :
    ({ State.resetWith smallGrid with pm := [(0, 1)] } : State).Inv :=
  { smallGrid_inv with pm := rfl, pmCells := by decide }

theorem witness_DecodeAccountsForEveryCandidate :
    State.reset.Inv ∧ ∃ t, exec .decode State.reset = .next t := ⟨reset_inv, _, rfl⟩

/-- Two states that differ in what DECODE does not depend on. -/
theorem witness_DecodeDependsOnlyOnItsInputs :
    let s := State.reset
    let s' : State := { State.reset with slotSeq := 7, timestamp := 9, a91 := 0x20, ie := true }
    s.Inv ∧ s'.Inv ∧ s'.cfg = s.cfg ∧ (∀ c, s'.pmCell c = s.pmCell c) ∧ s'.minScore = s.minScore ∧
    s'.maxCand = s.maxCand ∧ s'.maxIter = s.maxIter ∧ s'.syncMap = s.syncMap ∧
    s'.grayMap = s.grayMap ∧ s'.baseBin = s.baseBin ∧ s'.ht = s.ht ∧
    ∃ t t', exec .decode s = .next t ∧ exec .decode s' = .next t' :=
  ⟨reset_inv, { reset_inv with a91 := by decide }, rfl, fun _ => rfl, rfl, rfl, rfl, rfl, rfl, rfl,
    rfl, _, _, rfl, rfl⟩

/-- An idle read at the last word of the matrix, a read of `STATUS` of a busy block, and the layouts of
a full and of an empty store. -/
theorem witness_NormalReadReturnsTheWordAndChangesNothing :
    (withInputs [.read 0x10013FC]).inReset = false ∧ (0x10013FC : BitVec 25).toNat % 4 = 0 ∧
    locate (withInputs []).cfg 0x10013FC = some (.pm 1279) ∧
    (withInputs [.read 0x10013FC]).busy = false ∧ (running 1 [.read 0x008]).busy = true ∧
    locate (running 1 []).cfg 0x008 = some .status ∧
    State.reset.res.length ≤ 0 ∧ (List.replicate 6 zeroRecord)[5]? = some zeroRecord ∧
    State.reset.Inv ∧
    ({ withValid 0 with res := List.replicate 6 zeroRecord, msg := Msg.zero } : State).Inv :=
  ⟨rfl, rfl, by decide +kernel, rfl, rfl, by decide, by decide, by decide, reset_inv,
    stored_inv 6 (by decide) _ _ ⟨by decide, by decide, by decide, fun _ => rfl⟩⟩

theorem witness_MisalignedAccessIsRefused :
    (withInputs [.read 0x009]).inReset = false ∧ (0x009 : BitVec 25).toNat % 4 ≠ 0 ∧
    (withInputs [.read 0x009]).inputs = [.read 0x009] ∧
    (running 1 [.write 0x007 0]).inputs = [.write 0x007 0] := ⟨rfl, by decide, rfl, rfl⟩

/-- A read of `CTRL` and writes of `CMD` and of the last word of the matrix, all of a busy block; the
addresses on both sides of an unmapped range and of a read-only one. -/
theorem witness_BusyEngineExcludesTheHost :
    (running 1 [.read 0x00C]).inReset = false ∧ (running 1 [.read 0x00C]).busy = true ∧
    (0x00C : BitVec 25) ≠ 0x008 ∧ (running 1 [.read 0x00C]).inputs = [.read 0x00C] ∧
    (running 1 [.write 0x004 0]).inputs = [.write 0x004 0] ∧
    (∀ a ∈ [0x004, 0x00C, 0x058, 0x07C, 0x090, 0x0B4, 0x2FC, 0x558, 0x10013FC],
      (BitVec.ofNat 25 a).toNat = a ∧ a % 4 = 0 ∧ ¬ UnmappedAddress State.reset.cfg a ∧
      ¬ ReadOnlyAddress a) ∧
    ReadOnlyAddress 0x088 ∧ UnmappedAddress State.reset.cfg 0x08C ∧
    UnmappedAddress State.reset.cfg 0x1001400 :=
  ⟨rfl, rfl, by decide, rfl, rfl, by decide +kernel, by decide, by decide, by decide +kernel⟩

/-- The first and the last word of each range of the reads and of the writes. -/
theorem witness_UnmappedAndReadOnlyAccessesAreRefused :
    (withInputs [.read 0x068]).busy = false ∧ (withInputs [.read 0x068]).inReset = false ∧
    (withInputs [.read 0x068]).inputs = [.read 0x068] ∧
    (∀ a ∈ [0x000, 0x068, 0x06C, 0x080, 0x08C, 0x09C, 0x0B8, 0x0BC, 0x0C0, 0x0F4, 0x0FC, 0x300, 0x340,
        0x3FC, 0x55C, 0x7FC, 0x800, 0xB00, 0xFFFFFC, 0x1000000 + 4 * (withInputs []).cfg.pmWords,
        0x1FFFFFC],
      (BitVec.ofNat 25 a).toNat = a ∧ a % 4 = 0) ∧
    (withInputs [.write 0x0FC 1]).inputs = [.write 0x0FC 1] := by decide +kernel

theorem witness_StatusWriteClearsTheWrittenFlags :
    (running 1 [.write 0x008 0x702]).inReset = false ∧
    (running 1 [.write 0x008 0x702]).inputs = [.write 0x008 0x702] := ⟨rfl, rfl⟩

theorem witness_ControlRegistersReadBackAsWritten :
    (withInputs [.write 0x00C 1]).inputs = [.write 0x00C 1] ∧
    State.reset.cfg.legal = true ∧ State.reset.busy = false ∧ State.reset.inReset = false :=
  ⟨rfl, default_legal, rfl, rfl⟩

/-- The last word of each buffer, and the entries of `CL` on both sides of `CAND_CAP`. -/
theorem witness_BitBufferWordsReadBackAsWritten :
    State.reset.Inv ∧ State.reset.busy = false ∧ State.reset.inReset = false ∧
    2 < 3 ∧ 5 < 6 ∧ 86 < 87 ∧ 3 < 4 ∧ 15 < State.reset.cfg.candCap ∧
    State.reset.cfg.candCap ≤ 16 ∧ 63 < 64 ∧ State.reset.cl[15]? = some Candidate.zero :=
  ⟨reset_inv, rfl, rfl, by decide, by decide, by decide, by decide, by decide, by decide, by decide,
    by decide⟩

/-- The first and the last word of the matrix. -/
theorem witness_PowerMatrixWriteStoresFourCells :
    0 < State.reset.cfg.pmWords ∧ 1279 < State.reset.cfg.pmWords ∧
    4 * 1279 + 3 < State.reset.cfg.pmBytes ∧ State.reset.pm.wf = true := by decide

/-- A busy and an idle block. -/
theorem witness_RegistersReadInTheirLayout :
    (running 1 []).inReset = false ∧ (running 1 []).busy = true ∧
    (State.resetWith smallGrid).Inv ∧ (State.resetWith smallGrid).busy = false ∧
    (State.resetWith smallGrid).inReset = false := ⟨rfl, rfl, smallGrid_inv, rfl, rfl⟩

end Sys2Proof.Tests
end

section
/-! Host words as bytes and as runs of a bit string (R10, R77): what a word of a buffer reads as after a
write of the same or of another word. -/

namespace Sys2Proof.Machine

open Sys2Proof

/-! ### Bytes of a word -/

/-- A concatenation as a number, the second part in the low bits. -/
theorem toNat_append_eq {m n : Nat} (x : BitVec m) (y : BitVec n) :
    (x ++ y).toNat = x.toNat * 2 ^ n + y.toNat := by
  rw [BitVec.toNat_append, ← Nat.shiftLeft_add_eq_or_of_lt y.isLt, Nat.shiftLeft_eq]

/-- The bits of four packed bytes: bit `i` is in byte `i / 8` (R77). -/
theorem getLsbD_packWord (f : Nat → Byte) {i : Nat} (hi : i < 32) :
    (packWord (f 0) (f 1) (f 2) (f 3)).getLsbD i = (f (i / 8)).getLsbD (i % 8) := by
  have hbits : (packWord (f 0) (f 1) (f 2) (f 3)).getLsbD i =
      if i < 8 then (f 0).getLsbD i
      else if i - 8 < 8 then (f 1).getLsbD (i - 8)
      else if i - 8 - 8 < 8 then (f 2).getLsbD (i - 8 - 8)
      else (f 3).getLsbD (i - 8 - 8 - 8) := by
    simp only [packWord, BitVec.getLsbD_append]
  have hlane : i / 8 = 0 ∨ i / 8 = 1 ∨ i / 8 = 2 ∨ i / 8 = 3 := by omega
  rcases hlane with h | h | h | h <;> rw [hbits, h] <;>
    simp (disch := omega) only [if_pos, if_neg] <;> congr 1 <;> omega

theorem getLsbD_wordByte (v : Word) (j : Nat) {i : Nat} (hi : i < 8) :
    (wordByte v j).getLsbD i = v.getLsbD (8 * j + i) := by
  simp [wordByte, hi]

/-- A word is its four bytes. -/
theorem packWord_wordByte (v : Word) :
    packWord (wordByte v 0) (wordByte v 1) (wordByte v 2) (wordByte v 3) = v := by
  refine BitVec.eq_of_getLsbD_eq fun i hi => ?_
  rw [getLsbD_packWord (wordByte v) hi, getLsbD_wordByte v _ (Nat.mod_lt _ (by decide)),
    Nat.div_add_mod]

theorem wordByte_packWord (f : Nat → Byte) {j : Nat} (hj : j < 4) :
    wordByte (packWord (f 0) (f 1) (f 2) (f 3)) j = f j := by
  refine BitVec.eq_of_getLsbD_eq fun i hi => ?_
  rw [getLsbD_wordByte _ j hi, getLsbD_packWord f (by omega), show (8 * j + i) / 8 = j by omega,
    show (8 * j + i) % 8 = i by omega]

theorem byteLane_eq (v : Word) (j : Nat) : byteLane v j = (wordByte v j).toNat := by
  rw [byteLane, wordByte, BitVec.extractLsb'_toNat, Nat.shiftRight_eq_div_pow]

/-- A word is its two halves. -/
theorem append_halves (v : Word) : v.extractLsb' 16 16 ++ v.extractLsb' 0 16 = v :=
  (BitVec.extractLsb'_append_extractLsb'_eq_extractLsb' rfl).trans BitVec.extractLsb'_eq_self

/-! ### Words of a bit string -/

/-- Bit `j` of a word that holds a run of a bit string: it is in byte `j / 8`, whose first bit is the
most significant (R10). -/
def streamBit (v : Word) (j : Nat) : Bool := v.getLsbD (8 * (j / 8) + (7 - j % 8))

theorem eq_of_streamBit_eq {x y : Word} (h : ∀ j < 32, streamBit x j = streamBit y j) : x = y := by
  refine BitVec.eq_of_getLsbD_eq fun i hi => ?_
  have hj := h (8 * (i / 8) + (7 - i % 8)) (by omega)
  rwa [streamBit, streamBit, show 8 * ((8 * (i / 8) + (7 - i % 8)) / 8) +
    (7 - (8 * (i / 8) + (7 - i % 8)) % 8) = i by omega] at hj

theorem getLsbD_byteSwap (v : Word) {i : Nat} (hi : i < 32) :
    (byteSwap v).getLsbD i = v.getLsbD (8 * (3 - i / 8) + i % 8) := by
  rw [byteSwap, getLsbD_packWord (fun j => wordByte v (3 - j)) hi,
    getLsbD_wordByte v _ (Nat.mod_lt _ (by decide))]

theorem streamBit_byteSwap (v : Word) {j : Nat} (hj : j < 32) :
    streamBit (byteSwap v) j = v.getLsbD (31 - j) := by
  rw [streamBit, getLsbD_byteSwap v (by omega)]
  congr 1
  omega

theorem getLsbD_byteSwap_rev (v : Word) {j : Nat} (hj : j < 32) :
    (byteSwap v).getLsbD (31 - j) = streamBit v j := by
  rw [streamBit, getLsbD_byteSwap v (by omega)]
  congr 1
  omega

/-- Word `w` of a bit string holds its bits `32 w` to `32 w + 31` (R24, R25). -/
theorem streamBit_bitsWord {n : Nat} (x : BitVec n) {w j : Nat} (hw : 32 * w + 32 ≤ n) (hj : j < 32) :
    streamBit (bitsWord x w) j = x.getMsbD (32 * w + j) := by
  rw [bitsWord, streamBit_byteSwap _ hj, BitVec.getLsbD_extractLsb', BitVec.getMsbD_eq_getLsbD,
    show n - 32 - 32 * w + (31 - j) = n - 1 - (32 * w + j) by omega]
  simp [show 31 - j < 32 by omega, show 32 * w + j < n by omega]

/-- A write of word `w` of a bit string changes its bits `32 w` to `32 w + 31` (R24, R25). -/
theorem getMsbD_setBitsWord {n : Nat} (x : BitVec n) {w : Nat} (v : Word) (hw : 32 * w + 32 ≤ n) {i : Nat}
    (hi : i < n) :
    (setBitsWord x w v).getMsbD i = if i / 32 = w then streamBit v (i % 32) else x.getMsbD i := by
  simp only [setBitsWord, BitVec.getMsbD_eq_getLsbD, hi, decide_true, Bool.true_and,
    BitVec.getLsbD_or, BitVec.getLsbD_and, BitVec.getLsbD_not, BitVec.getLsbD_shiftLeft,
    BitVec.getLsbD_setWidth, BitVec.getLsbD_allOnes]
  by_cases hword : i / 32 = w
  · have hlow : ¬ n - 1 - i < n - 32 - 32 * w := by omega
    have hpos : n - 1 - i - (n - 32 - 32 * w) = 31 - i % 32 := by omega
    rw [if_pos hword, hpos, getLsbD_byteSwap_rev v (Nat.mod_lt _ (by decide))]
    simp [hlow, show n - 1 - i < n by omega, show 31 - i % 32 < n by omega,
      show 31 - i % 32 < 32 by omega]
  · rw [if_neg hword]
    by_cases hlow : n - 1 - i < n - 32 - 32 * w
    · simp [hlow, show n - 1 - i < n by omega]
    · have hhigh : ¬ n - 1 - i - (n - 32 - 32 * w) < 32 := by omega
      have hswap := BitVec.getLsbD_of_ge (byteSwap v) _ (Nat.le_of_not_lt hhigh)
      simp [hlow, hhigh, hswap, show n - 1 - i < n by omega]

/-- A word of a bit string reads back as written, and every other word as before. -/
theorem bitsWord_setBitsWord {n : Nat} (x : BitVec n) {w k : Nat} (v : Word) (hw : 32 * w + 32 ≤ n)
    (hk : 32 * k + 32 ≤ n) : bitsWord (setBitsWord x w v) k = if k = w then v else bitsWord x k := by
  refine eq_of_streamBit_eq fun j hj => ?_
  rw [streamBit_bitsWord _ hk hj, getMsbD_setBitsWord x v hw (by omega),
    show (32 * k + j) / 32 = k by omega, show (32 * k + j) % 32 = j by omega,
    ← streamBit_bitsWord x hk hj]
  split <;> rfl

/-- Clearing the bits of a bit string from `c` on masks its words. -/
theorem bitsWord_of_cut {n c : Nat} {x y : BitVec n} {mask : Word} {k : Nat} (hk : 32 * k + 32 ≤ n)
    (hcut : ∀ i < n, y.getMsbD i = (decide (i < c) && x.getMsbD i))
    (hmask : ∀ j < 32, streamBit mask j = decide (32 * k + j < c)) :
    bitsWord y k = bitsWord x k &&& mask := by
  refine eq_of_streamBit_eq fun j hj => ?_
  have hand : streamBit (bitsWord x k &&& mask) j =
      (streamBit (bitsWord x k) j && streamBit mask j) := BitVec.getLsbD_and ..
  rw [hand, hmask j hj, streamBit_bitsWord _ hk hj, streamBit_bitsWord _ hk hj, hcut _ (by omega),
    Bool.and_comm]

/-- A write whose result is cut to the bits the buffer has, which masks its last word: the word written
reads back but for that mask, and every other word as before, since the buffer held only such bits. -/
theorem bitsWord_cut_setBitsWord {n : Nat} {x : BitVec n} {cut : BitVec n → BitVec n}
    {w k last : Nat} {mask : Word} (hw : 32 * w + 32 ≤ n) (hk : 32 * k + 32 ≤ n)
    (hmask : ∀ y, bitsWord (cut y) k = bitsWord y k &&& (if k = last then mask else -1))
    (hx : cut x = x) (v : Word) : bitsWord (cut (setBitsWord x w v)) k =
      if k = w then (if w = last then v &&& mask else v) else bitsWord x k := by
  rw [hmask, bitsWord_setBitsWord x v hw hk]
  by_cases hkw : k = w
  · subst hkw
    rw [if_pos rfl, if_pos rfl]
    split
    · rfl
    · exact BitVec.and_allOnes
  · rw [if_neg hkw, if_neg hkw, ← hmask, hx]

/-- Words that read as those of a bit string lay it out, also when its last words are filled up with
zero bits. -/
theorem bitsLaidOut_of_bitsWord {m n words : Nat} {x : BitVec m} {y : BitVec n} {word : Nat → Word}
    (hxy : ∀ i, y.getMsbD i = x.getMsbD i) (hn : 32 * words ≤ n)
    (hword : ∀ w < words, word w = bitsWord y w) : BitsLaidOut x words word := by
  intro i hi
  have hbit := streamBit_bitsWord y (w := i / 32) (j := i % 32) (by omega) (Nat.mod_lt _ (by decide))
  rw [Nat.div_add_mod, hxy, streamBit, show i % 32 / 8 = i / 8 % 4 by omega,
    show i % 32 % 8 = i % 8 by omega] at hbit
  rw [hword _ (by omega), hbit]

/-! ### `A91` -/

/-- Forcing the tail of a payload buffer clears its last five bits, register bits 4:0, and no other
(R25). -/
theorem getLsbD_forceA91Tail (x : BitVec 96) (j : Nat) :
    (forceA91Tail x).getLsbD j = (decide (5 ≤ j) && x.getLsbD j) := by
  have hmask : ∀ j < 96, (~~~(0x1F : BitVec 96)).getLsbD j = decide (5 ≤ j) := by decide
  rw [forceA91Tail, BitVec.getLsbD_and, Bool.and_comm]
  by_cases hj : j < 96
  · rw [hmask j hj]
  · simp [BitVec.getLsbD_of_ge x j (by omega)]

theorem tailZero_forceA91Tail (x : BitVec 96) : TailZero (forceA91Tail x) := by
  refine BitVec.eq_of_getLsbD_eq fun j hj => ?_
  simp [getLsbD_forceA91Tail, hj]

theorem getMsbD_forceA91Tail (x : BitVec 96) {i : Nat} (hi : i < 96) :
    (forceA91Tail x).getMsbD i = (decide (i < 91) && x.getMsbD i) := by
  have hpos : decide (5 ≤ 96 - 1 - i) = decide (i < 91) := decide_eq_decide.2 (by omega)
  rw [BitVec.getMsbD_eq_getLsbD, BitVec.getMsbD_eq_getLsbD, getLsbD_forceA91Tail, hpos,
    decide_eq_true hi, Bool.true_and, Bool.true_and]

/-- A payload buffer whose tail is zero is not changed by forcing it (R25). -/
theorem forceA91Tail_of_tailZero {x : BitVec 96} (h : TailZero x) : forceA91Tail x = x := by
  refine BitVec.eq_of_getLsbD_eq fun j hj => ?_
  rw [getLsbD_forceA91Tail]
  by_cases hlow : j < 5
  · have hbit : (x.extractLsb' 0 5).getLsbD j = false := by rw [h]; exact BitVec.getLsbD_zero
    rw [BitVec.getLsbD_extractLsb', Nat.zero_add, decide_eq_true hlow, Bool.true_and] at hbit
    rw [hbit, Bool.and_false]
  · simp [show 5 ≤ j by omega]

theorem bitsWord_forceA91Tail (x : BitVec 96) {k : Nat} (hk : k < 3) :
    bitsWord (forceA91Tail x) k = bitsWord x k &&& (if k = 2 then 0xE0FFFFFF else -1) := by
  have hmask : ∀ k < 3, ∀ j < 32,
      streamBit (if k = 2 then 0xE0FFFFFF else -1) j = decide (32 * k + j < 91) := by decide
  exact bitsWord_of_cut (by omega) (fun i hi => getMsbD_forceA91Tail x hi) (hmask k hk)

/-- A word of `A91` reads back as written but for the five forced bits (R25). -/
theorem bitsWord_a91_write {a : BitVec 96} (h : TailZero a) {w k : Nat} (hw : w < 3) (hk : k < 3)
    (v : Word) : bitsWord (forceA91Tail (setBitsWord a w v)) k =
      if k = w then (if w = 2 then v &&& 0xE0FFFFFF else v) else bitsWord a k :=
  bitsWord_cut_setBitsWord (by omega) (by omega) (fun y => bitsWord_forceA91Tail y hk)
    (forceA91Tail_of_tailZero h) v

/-! ### `HARD` -/

theorem getMsbD_hardBytes (x : BitVec 174) (i : Nat) : (hardBytes x).getMsbD i = x.getMsbD i := by
  have happend : (hardBytes x).getMsbD i =
      if 174 ≤ i then (0 : BitVec 18).getMsbD (i - 174) else x.getMsbD i := BitVec.getMsbD_append
  rw [happend]
  split
  · rw [BitVec.getMsbD_of_ge x i ‹_›]
    exact BitVec.getMsbD_zero
  · rfl

/-- The bits that a host write leaves in `HARD`: bits 174 and up are dropped (R24). -/
theorem getMsbD_hardBytes_extract (y : BitVec 192) {i : Nat} (hi : i < 192) :
    (hardBytes (y.extractLsb' 18 174)).getMsbD i = (decide (i < 174) && y.getMsbD i) := by
  rw [getMsbD_hardBytes, BitVec.getMsbD_extractLsb']
  by_cases h : i < 174
  · simp [h, show 18 + 174 - i ≤ 192 by omega, show 192 - (18 + 174 - i) = i by omega]
  · simp [h]

theorem extractLsb'_hardBytes (x : BitVec 174) : (hardBytes x).extractLsb' 18 174 = x :=
  BitVec.extractLsb'_append_eq_left

theorem bitsWord_hardBytes_extract (y : BitVec 192) {k : Nat} (hk : k < 6) :
    bitsWord (hardBytes (y.extractLsb' 18 174)) k =
      bitsWord y k &&& (if k = 5 then 0x0000FCFF else -1) := by
  have hmask : ∀ k < 6, ∀ j < 32,
      streamBit (if k = 5 then 0x0000FCFF else -1) j = decide (32 * k + j < 174) := by decide
  exact bitsWord_of_cut (by omega) (fun i hi => getMsbD_hardBytes_extract y hi) (hmask k hk)

/-- A word of `HARD` reads back as written but for the dropped bits (R24). -/
theorem bitsWord_hard_write (x : BitVec 174) {w k : Nat} (hw : w < 6) (hk : k < 6) (v : Word) :
    bitsWord (hardBytes ((setBitsWord (hardBytes x) w v).extractLsb' 18 174)) k =
      if k = w then (if w = 5 then v &&& 0x0000FCFF else v) else bitsWord (hardBytes x) k :=
  bitsWord_cut_setBitsWord (cut := fun y => hardBytes (y.extractLsb' 18 174)) (by omega) (by omega)
    (fun y => bitsWord_hardBytes_extract y hk) (congrArg hardBytes (extractLsb'_hardBytes x)) v

/-! ### `CL`, `LLR` and `HT_TEXT_IN` -/

/-- The two words of a candidate as numbers (R22). -/
theorem toNat_candidateWord_zero (c : Candidate) :
    (candidateWord c 0).toNat = c.timeOffset.toNat * 2 ^ 16 + c.score.toNat :=
  toNat_append_eq ..

theorem toNat_candidateWord_one (c : Candidate) :
    (candidateWord c 1).toNat = c.freqSub.toNat * 2 ^ 16 + c.freqOffset.toNat := by
  have h : (candidateWord c 1).toNat =
      ((0 : BitVec 15) ++ c.freqSub).toNat * 2 ^ 16 + c.freqOffset.toNat := toNat_append_eq ..
  rw [h, toNat_append_eq]
  simp

/-- A word of a candidate reads back as written but for the bits it has no room for (R22). -/
theorem candidateWord_writeCandidate (c : Candidate) {w k : Nat} (hw : w < 2) (hk : k < 2) (v : Word) :
    candidateWord (writeCandidate c w v) k =
      if k = w then (if w = 1 then v &&& 0x0001FFFF else v) else candidateWord c k := by
  have hhigh : (0 : BitVec 15) ++ v.extractLsb' 16 1 ++ v.extractLsb' 0 16 = v &&& 0x0001FFFF := by
    have hand : v.toNat &&& 0x0001FFFF = v.toNat % 2 ^ 17 := Nat.and_two_pow_sub_one_eq_mod _ 17
    refine BitVec.eq_of_toNat_eq ?_
    rw [toNat_append_eq, toNat_append_eq, BitVec.extractLsb'_toNat, BitVec.extractLsb'_toNat,
      BitVec.toNat_and, Nat.shiftRight_eq_div_pow, Nat.shiftRight_eq_div_pow]
    change _ = v.toNat &&& 0x0001FFFF
    rw [hand, show (0 : BitVec 15).toNat = 0 from rfl]
    omega
  interval_cases w <;> interval_cases k
  · exact append_halves v
  · rfl
  · rfl
  · exact hhigh

/-- An entry of a buffer after an entry of it is replaced. -/
theorem getD_set {α : Type} (l : List α) {i : Nat} (hi : i < l.length) (a d : α) (j : Nat) :
    (l.set i a).getD j d = if j = i then a else l.getD j d := by
  rw [List.getD_eq_getElem?_getD, List.getD_eq_getElem?_getD, List.getElem?_set]
  by_cases h : i = j
  · subst h
    simp [hi]
  · rw [if_neg h, if_neg (Ne.symm h)]

/-- A word of `LLR` is two entries (R23): it reads back as written, and every other word as before. -/
theorem llrWord_write {l : List (BitVec 16)} (h : l.length = 174) {w : Nat} (hw : w < 87) (k : Nat)
    (v : Word) :
    let l' := (l.set (2 * w) (v.extractLsb' 0 16)).set (2 * w + 1) (v.extractLsb' 16 16)
    l'.getD (2 * k + 1) 0 ++ l'.getD (2 * k) 0 =
      if k = w then v else (l.getD (2 * k + 1) 0 ++ l.getD (2 * k) 0 : Word) := by
  have hlow : 2 * w < l.length := by omega
  have hhigh : 2 * w + 1 < (l.set (2 * w) (v.extractLsb' 0 16)).length := by
    rw [List.length_set]
    omega
  dsimp only
  rw [getD_set _ hhigh, getD_set _ hhigh, getD_set _ hlow, getD_set _ hlow]
  by_cases hkw : k = w
  · subst hkw
    rw [if_pos rfl, if_neg (by omega), if_pos rfl, if_pos rfl]
    exact append_halves v
  · simp (disch := omega) only [if_neg]

/-- A cell after a host write of word `w`: byte `c % 4` of the word if the cell is in it (R77). -/
theorem getD_writeCells {cells : List Byte} {w : Nat} (hw : 4 * w + 4 ≤ cells.length) (v : Word)
    (c : Nat) :
    (writeCells cells w v).getD c 0 = if c / 4 = w then wordByte v (c % 4) else cells.getD c 0 := by
  rw [writeCells, getD_set _ (by simp only [List.length_set]; omega),
    getD_set _ (by simp only [List.length_set]; omega),
    getD_set _ (by simp only [List.length_set]; omega), getD_set _ (by omega)]
  by_cases hc : c / 4 = w
  · have hlane : c = 4 * w ∨ c = 4 * w + 1 ∨ c = 4 * w + 2 ∨ c = 4 * w + 3 := by omega
    rw [if_pos hc]
    rcases hlane with rfl | rfl | rfl | rfl <;> simp [Nat.add_mod]
  · simp (disch := omega) only [if_neg]

/-- A word of byte cells reads back as written, and every other word as before. -/
theorem cellsWord_writeCells {cells : List Byte} {w : Nat} (hw : 4 * w + 4 ≤ cells.length) (v : Word)
    (k : Nat) : cellsWord (writeCells cells w v) k = if k = w then v else cellsWord cells k := by
  have hdiv : 4 * k / 4 = k ∧ (4 * k + 1) / 4 = k ∧ (4 * k + 2) / 4 = k ∧ (4 * k + 3) / 4 = k := by
    omega
  have hmod : 4 * k % 4 = 0 ∧ (4 * k + 1) % 4 = 1 ∧ (4 * k + 2) % 4 = 2 ∧ (4 * k + 3) % 4 = 3 := by
    omega
  simp only [cellsWord, getD_writeCells hw, hdiv, hmod]
  split
  · exact packWord_wordByte v
  · rfl

/-- Cell `b` of a run of cells is byte `b % 4` of its word (R77). -/
theorem byteLane_cellsWord (cells : List Byte) (b : Nat) :
    byteLane (cellsWord cells (b / 4)) (b % 4) = (cells.getD b 0).toNat := by
  have hbyte : wordByte (cellsWord cells (b / 4)) (b % 4) = cells.getD (4 * (b / 4) + b % 4) 0 :=
    wordByte_packWord (fun j => cells.getD (4 * (b / 4) + j) 0) (Nat.mod_lt _ (by decide))
  rw [byteLane_eq, hbyte, Nat.div_add_mod]

end Sys2Proof.Machine
end

section
/-! The host port of an idle block: every location is reached at its own address, a read returns its
word, and a write follows its rule. -/

namespace Sys2Proof.Machine

open Sys2Proof

/-- Every word of the address map is reached at its own address (R74). -/
theorem target_addr {p : Config.Params} {l : Location} (h : l.inBuffer p) : target p l.addr = some l := by
  cases l with
  | htTextIn w | htTextOut w | a91 w | hard w | msg w | disp w | llr w | pm w =>
    simp only [Location.inBuffer] at h
    simp (disch := omega) only [target, locate, Location.addr, if_pos, if_neg,
      Nat.add_sub_cancel_left, Nat.mul_div_cancel_left]
  | cl i w | res i w =>
    obtain ⟨hi, hw⟩ : _ ∧ _ := h
    simp (disch := omega) only [target, locate, Location.addr, if_pos, if_neg, Nat.add_assoc,
      Nat.add_sub_cancel_left]
    congr 2 <;> omega
  | _ => rfl

section
variable {s : State} {l : Location} (hb : s.busy = false) (hr : s.inReset = false)
include hb hr

/-- A read of an idle block returns the location's word and changes nothing else (R71). -/
theorem hostRead_addr (hl : l.inBuffer s.cfg) :
    hostRead l.addr s = { s with readData := readLocation s l } := by
  simp [hostRead, hr, target_addr hl, State.excludes, hb]

/-- A write to a writable location of an idle block is the location's rule (R72). -/
theorem hostWrite_addr (hl : l.inBuffer s.cfg) (hw : l.writable = true) (v : Word) :
    hostWrite l.addr v s = writeLocation v s l := by
  have htarget : writeTarget s.cfg l.addr = some l := by
    rw [writeTarget, target_addr hl, Option.filter_some_pos hw]
  simp [hostWrite, hr, htarget, State.excludes, hb]

end

/-! ### The bit buffers -/

section
variable {s : State} {w : Nat} (hb : s.busy = false) (hr : s.inReset = false)
include hb hr

theorem hostRead_a91 (hw : w < 3) : (hostRead (0x090 + 4 * w) s).readData = bitsWord s.a91 w :=
  congrArg State.readData (hostRead_addr (l := .a91 w) hb hr hw)

theorem hostRead_hard (hw : w < 6) :
    (hostRead (0x0A0 + 4 * w) s).readData = bitsWord (hardBytes s.hard) w :=
  congrArg State.readData (hostRead_addr (l := .hard w) hb hr hw)

theorem hostRead_cl {i : Nat} (hi : i < 64) (hw : w < 2) :
    hostRead (0x100 + 8 * i + 4 * w) s = { s with readData := candidateWord (s.candidate i) w } :=
  hostRead_addr (l := .cl i w) hb hr ⟨hi, hw⟩

theorem hostRead_llr (hw : w < 87) :
    (hostRead (0x400 + 4 * w) s).readData = s.llr.getD (2 * w + 1) 0 ++ s.llr.getD (2 * w) 0 :=
  congrArg State.readData (hostRead_addr (l := .llr w) hb hr hw)

theorem hostRead_htTextIn (hw : w < 4) :
    (hostRead (0x070 + 4 * w) s).readData = cellsWord s.htTextIn w :=
  congrArg State.readData (hostRead_addr (l := .htTextIn w) hb hr hw)

variable (v : Word)

theorem hostWrite_a91 (hw : w < 3) :
    hostWrite (0x090 + 4 * w) v s = { s with a91 := forceA91Tail (setBitsWord s.a91 w v) } :=
  hostWrite_addr (l := .a91 w) hb hr hw rfl v

theorem hostWrite_hard (hw : w < 6) :
    hostWrite (0x0A0 + 4 * w) v s =
      { s with hard := (setBitsWord (hardBytes s.hard) w v).extractLsb' 18 174 } :=
  hostWrite_addr (l := .hard w) hb hr hw rfl v

theorem hostWrite_cl {i : Nat} (hi : i < 64) (hw : w < 2) :
    hostWrite (0x100 + 8 * i + 4 * w) v s =
      { s with cl := s.cl.set i (writeCandidate (s.candidate i) w v) } :=
  hostWrite_addr (l := .cl i w) hb hr ⟨hi, hw⟩ rfl v

theorem hostWrite_llr (hw : w < 87) :
    hostWrite (0x400 + 4 * w) v s =
      { s with
        llr := (s.llr.set (2 * w) (v.extractLsb' 0 16)).set (2 * w + 1) (v.extractLsb' 16 16) } :=
  hostWrite_addr (l := .llr w) hb hr hw rfl v

theorem hostWrite_htTextIn (hw : w < 4) :
    hostWrite (0x070 + 4 * w) v s = { s with htTextIn := writeCells s.htTextIn w v } :=
  hostWrite_addr (l := .htTextIn w) hb hr hw rfl v

end

end Sys2Proof.Machine
end

section
/-! The state invariant of 10_state.md is kept by every step: by the bodies of the commands, by the host
port, and by the reset input. -/

namespace Sys2Proof.Machine

open Sys2Proof

/-! ### Completion -/

/-- Cutting a number to a bit vector never makes it larger, so every bound survives. -/
theorem toNat_ofNat_le (n x : Nat) : (BitVec.ofNat n x).toNat ≤ x := by
  rw [BitVec.toNat_ofNat]
  exact Nat.mod_le x _

/-- The invariant as a command's completion will find it.  Completion makes the engine idle with
`PHASE = 0` (R102), so this is all of the invariant that the middle of a command has to keep: there
`PHASE` may have any value. -/
abbrev State.InvAtCompletion (s : State) : Prop := (s.completeWith .ok).Inv

theorem State.Inv.atCompletion {s : State} (h : s.Inv) : s.InvAtCompletion :=
  { h with phase := fun _ => rfl }

/-- The error code is free (R321). -/
theorem State.InvAtCompletion.completeWith {s : State} (h : s.InvAtCompletion) (e : ErrCode) :
    (s.completeWith e).Inv :=
  { h with }

/-- The invariant lets the texts of the hash table fit the registers that receive them (R236). -/
theorem State.Inv.textsFit {s : State} (h : s.Inv) : TextsFit s.ht := by
  intro e he
  have hv := (h.ht e he).1
  simp only [validCallsign, Bool.and_eq_true, decide_eq_true_eq] at hv
  exact hv.1.2

theorem Msg.bounded_zero : Msg.zero.Bounded :=
  ⟨Nat.zero_le _, Nat.zero_le _, Nat.zero_le _, fun _ => rfl⟩

/-! ### The bodies of the commands -/

theorem State.InvAtCompletion.enter {s : State} (h : s.InvAtCompletion) (ph : Phase) :
    (s.enter ph).InvAtCompletion :=
  { h with }

theorem State.InvAtCompletion.enterAt {s : State} (h : s.InvAtCompletion) (ph : Phase) {k : Nat}
    (hk : k ≤ s.cfg.candCap) : (s.enterAt ph k).InvAtCompletion :=
  { h with candIdx := (toNat_ofNat_le 7 k).trans hk }

theorem State.InvAtCompletion.setDisp {s : State} (h : s.InvAtCompletion) (i : Nat) (d : Disposition) :
    (s.setDisp i d).InvAtCompletion :=
  { h with disp := (List.length_set).trans h.disp }

theorem State.InvAtCompletion.clrresBody {s : State} (h : s.InvAtCompletion) :
    (clrresBody s).out.InvAtCompletion :=
  { h with
    resCount := Nat.zero_le _
    res := fun _ hr => nomatch hr }

/-- SYNC fills `CL` up to `CAND_CAP` entries, and keeps at most `MAX_CAND` (R140). -/
theorem State.InvAtCompletion.syncBody {s : State} (h : s.InvAtCompletion) :
    (syncBody s).out.InvAtCompletion := by
  have hkept : (syncKept s).length ≤ s.cfg.candCap := (length_syncKept_le s).trans h.maxCand
  exact { h with
    disp := List.length_replicate
    cl := by
      change (syncKept s ++ List.replicate (s.cfg.candCap - (syncKept s).length) _).length
        = s.cfg.candCap
      rw [List.length_append, List.length_replicate]
      omega
    candCount := (toNat_ofNat_le 7 _).trans hkept }

theorem State.InvAtCompletion.extractBody {s : State} (h : s.InvAtCompletion) (idx : Nat) :
    (extractBody idx s).out.InvAtCompletion := by
  rcases extractBody_cases idx s with ⟨-, e⟩ | ⟨-, -, e⟩ | ⟨hidx, -, e⟩ <;> rw [e]
  · exact h
  · exact h
  · exact { h with
      curCand := (toNat_ofNat_le 7 idx).trans_lt (hidx.trans_le h.candCount)
      llr := by simp [llrValues] }

/-- `ERRORS` counts rows of `H`, of which there are 83 (R6, R29). -/
theorem State.InvAtCompletion.ldpcBody {s : State} (h : s.InvAtCompletion) :
    (ldpcBody s).out.InvAtCompletion := by
  have herr : s.ldpcOutcome.errors ≤ 83 := by
    obtain ⟨-, -, -, -, -, -, -, hrows⟩ := Config.bounds_of_legal h.legal
    rw [(ldpcOutcome_spec s).1, ← hrows]
    exact List.countP_le_length
  rcases ldpcBody_cases s with ⟨-, e⟩ | ⟨-, e⟩ <;> rw [e]
  · exact h
  · exact { h with ldpcErrors := (toNat_ofNat_le 8 _).trans herr }

theorem State.InvAtCompletion.checkBody {s : State} (h : s.InvAtCompletion) :
    (checkBody s).out.InvAtCompletion := by
  rcases checkBody_cases s with ⟨-, e⟩ | ⟨-, e⟩ <;> rw [e]
  · exact h
  · exact { h with a91 := tailZero_packPayload s.hard }

theorem State.InvAtCompletion.unpackBody {s : State} (h : s.InvAtCompletion) :
    (unpackBody s).out.InvAtCompletion := by
  rcases unpackBody_cases s with ⟨-, e⟩ | ⟨-, _, -, e⟩ | ⟨-, m, hm, e⟩ <;> rw [e]
  · exact h
  · exact { h with msg := Msg.bounded_zero }
  · exact { h with msg := unpackMessage_bounded h.textsFit hm }

/-- A new record is appended only below `RES_CAP`, and takes `MSG` and `A91` as they are (R293, R294). -/
theorem State.InvAtCompletion.storeBody {s : State} (h : s.InvAtCompletion) :
    (storeBody s).out.InvAtCompletion := by
  rcases storeBody_cases s with ⟨-, e⟩ | ⟨-, -, e⟩ | ⟨-, -, -, e⟩ | ⟨-, -, hroom, e⟩ <;> rw [e]
  · exact h
  · exact h.setDisp _ _
  · exact h.setDisp _ _
  · have hstored : ({ s with res := s.res ++ [recordOf s s.curCand] } : State).InvAtCompletion :=
      { h with
        resCount := by
          have hle : s.res.length ≤ 6 := h.resCount
          change (s.res ++ [recordOf s s.curCand]).length ≤ 6
          rw [List.length_append, List.length_singleton]
          exact Nat.lt_of_le_of_ne hle hroom
        res := by
          intro r hr
          rcases List.mem_append.1 hr with hr | hr
          · exact h.res r hr
          · rw [List.mem_singleton.1 hr]
            exact ⟨h.msg, h.a91⟩ }
    exact hstored.setDisp _ _

/-- Replacing the text of a key by one with that hash keeps keys and slots as they have to be; a new
slot is appended only under a new key and below `HT_CAP` (R270, R273). -/
theorem State.InvAtCompletion.htaddBody {s : State} (h : s.InvAtCompletion) :
    (htaddBody s).out.InvAtCompletion := by
  rcases htaddBody_cases s with ⟨-, e⟩ | ⟨hv, -, e⟩ | ⟨-, -, -, e⟩ | ⟨hv, hnew, hroom, e⟩ <;> rw [e]
  · exact { h with }
  · exact { h with
      htCount := (length_replaceText ..).trans_le h.htCount
      htKeys := (map_key_replaceText ..).symm ▸ h.htKeys
      ht := by
        intro x hx
        rcases mem_replaceText hx with ⟨hkey, htext⟩ | hx
        · rw [hkey, htext]
          exact ⟨hv, rfl⟩
        · exact h.ht x hx }
  · exact { h with }
  · exact { h with
      htCount := by
        have hle : s.ht.length ≤ s.cfg.htCap := h.htCount
        change (s.ht ++ [_]).length ≤ s.cfg.htCap
        rw [List.length_append, List.length_singleton]
        exact Nat.lt_of_le_of_ne hle hroom
      htKeys := by
        have hkeys : (s.ht.map Slot.key).Nodup := h.htKeys
        change ((s.ht ++ [_]).map Slot.key).Nodup
        rw [List.map_append, List.map_singleton, ← List.concat_eq_append]
        refine hkeys.concat fun hmem => ?_
        obtain ⟨x, hx, hkey⟩ := List.mem_map.1 hmem
        exact htFind22_eq_none.1 hnew x hx hkey
      ht := by
        intro x hx
        rcases List.mem_append.1 hx with hx | hx
        · exact h.ht x hx
        · rw [List.mem_singleton.1 hx]
          exact ⟨hv, rfl⟩ }

/-- A slot in use holds a text that fits `HT_TEXT_OUT` (R42, R276, R278). -/
theorem State.InvAtCompletion.lookupResult_find {s : State} (h : s.InvAtCompletion)
    (f : Slot → Bool) : (lookupResult (s.ht.find? f) s).InvAtCompletion := by
  cases hf : s.ht.find? f with
  | none => exact { h with htTextOut := Nat.zero_le _ }
  | some e => exact { h with htTextOut := h.textsFit e (List.mem_of_find?_eq_some hf) }

/-- Every command keeps what its completion needs.  `CAND_CAP` bounds the index in `SEQ`, and no body
changes the configuration. -/
theorem State.InvAtCompletion.commandBody {s : State} (h : s.InvAtCompletion) (i : Instr) :
    (commandBody i s).out.InvAtCompletion := by
  refine (commandBody_keeps (P := fun t => t.InvAtCompletion ∧ EngineFrame s t)
    (N := s.cfg.candCap) ?enter ?bound ?enterAt ?clrres ?sync ?drop ?extract ?ldpc ?check ?unpack
    ?store ?htadd ?look ?look12 i ⟨h, .refl s⟩).1
  case enter => exact fun ph t ⟨ht, hf⟩ => ⟨ht.enter ph, hf.trans (.enter ph t)⟩
  case bound =>
    intro t ⟨ht, hf⟩
    rw [← hf.cfg]
    exact ht.candCount
  case enterAt =>
    intro ph k t hk ⟨ht, hf⟩
    exact ⟨ht.enterAt ph (hf.cfg.symm ▸ hk), hf.trans (.enterAt ph k t)⟩
  case clrres => exact fun t ⟨ht, hf⟩ => ⟨ht.clrresBody, hf.trans (.clrresBody t)⟩
  case sync => exact fun t ⟨ht, hf⟩ => ⟨ht.syncBody, hf.trans (.syncBody t)⟩
  case drop => exact fun d t ⟨ht, hf⟩ => ⟨ht.setDisp _ d, hf.trans (.setDisp _ d t)⟩
  case extract => exact fun k t ⟨ht, hf⟩ => ⟨ht.extractBody k, hf.trans (.extractBody k t)⟩
  case ldpc => exact fun t ⟨ht, hf⟩ => ⟨ht.ldpcBody, hf.trans (.ldpcBody t)⟩
  case check => exact fun t ⟨ht, hf⟩ => ⟨ht.checkBody, hf.trans (.checkBody t)⟩
  case unpack => exact fun t ⟨ht, hf⟩ => ⟨ht.unpackBody, hf.trans (.unpackBody t)⟩
  case store => exact fun t ⟨ht, hf⟩ => ⟨ht.storeBody, hf.trans (.storeBody t)⟩
  case htadd => exact fun t ⟨ht, hf⟩ => ⟨ht.htaddBody, hf.trans (.htaddBody t)⟩
  case look => exact fun t _ ⟨ht, hf⟩ => ⟨ht.lookupResult_find _, hf.trans (.lookupResult _ t)⟩
  case look12 => exact fun t _ ⟨ht, hf⟩ => ⟨ht.lookupResult_find _, hf.trans (.lookupResult _ t)⟩

theorem exec_inv {i : Instr} {s t : State} (h : s.Inv) (he : exec i s = .next t) : t.Inv := by
  rw [exec_eq, Host.Outcome.next.injEq] at he
  rw [← he]
  exact (h.atCompletion.commandBody i).completeWith _

/-! ### The host port -/

/-- Acceptance makes the engine busy, and moves `CAND_IDX` at most to 0 (R101, R306). -/
theorem State.Inv.accept {s : State} (h : s.Inv) (w : Word) : (s.accept w).Inv := by
  have hidx : (s.accept w).candIdx.toNat ≤ s.cfg.candCap := by
    rcases accept_candIdx w s with e | e <;> rw [e]
    · exact h.candIdx
    · exact Nat.zero_le _
  rw [accept_eq]
  exact { h with
    candIdx := hidx
    phase := fun hbusy => nomatch hbusy }

/-- A WARL field is written within its bound (R31, R37, R42). -/
theorem toNat_ofNat_warl_le (n : Nat) (v : Word) (bound : Nat) :
    (BitVec.ofNat n (warl v bound)).toNat ≤ bound :=
  (toNat_ofNat_le n _).trans (min_le_right _ _)

/-- A write to any location keeps the invariant (R72): a field with a bound is clamped (R31, R37, R42),
`A91` has its tail forced (R25), a buffer keeps its size, and `PM` its form. -/
theorem State.Inv.writeLocation {s : State} (h : s.Inv) (v : Word) :
    ∀ l : Location, (writeLocation v s l).Inv
  | .cmd => h.accept v
  | .maxCand => { h with maxCand := toNat_ofNat_warl_le 7 v _ }
  | .candCount => { h with candCount := toNat_ofNat_warl_le 7 v _ }
  | .htLenIn => { h with htLenIn := toNat_ofNat_warl_le 5 v _ }
  | .htTextIn w => { h with
      htTextIn := by simpa [Machine.writeLocation, writeCells] using h.htTextIn }
  | .a91 _ => { h with a91 := tailZero_forceA91Tail _ }
  | .cl _ _ => { h with cl := (List.length_set).trans h.cl }
  | .llr _ => { h with llr := by simpa [Machine.writeLocation] using h.llr }
  | .pm w => { h with
      pm := wf_writePmWord s.cfg h.pm w v
      pmCells := mem_writePmWord s.cfg h.pmCells w v }
  | .status | .ctrl | .minScore | .maxIter | .syncMap | .grayMap | .baseBin | .slotSeq | .timestamp
  | .valid | .htKeyIn | .hard _ => { h with }
  | .id | .seq | .ldpcStat | .crcStat | .msgStat | .resCount | .geom0 | .geom1 | .htInfo | .htKeyOut
  | .htLenOut | .htTextOut _ | .msg _ | .disp _ | .res _ _ => h

/-- A host read writes only the word it returns and the refusal flags (R71, R73, R74, R78). -/
theorem State.Inv.hostRead {s : State} (h : s.Inv) (a : Nat) : (hostRead a s).Inv := by
  rcases hostRead_cases a s with ⟨-, e⟩ | ⟨-, _, -, -, e⟩ | ⟨-, -, e⟩ <;> rw [e] <;> exact { h with }

theorem State.Inv.hostWrite {s : State} (h : s.Inv) (a : Nat) (v : Word) : (hostWrite a v s).Inv := by
  rcases hostWrite_cases a v s with ⟨-, e⟩ | ⟨-, l, -, -, e⟩ | ⟨-, -, e⟩ <;> rw [e]
  · exact h
  · exact h.writeLocation v l
  · exact { h with }

/-! ### One step -/

/-- A release of the reset input gives the reset values of a legal configuration (R350, R351). -/
theorem State.Inv.releaseReset {s : State} (h : s.Inv) : (releaseReset s).Inv := by
  have hcap : 0 < s.cfg.candCap := (Config.bounds_of_legal h.legal).2.2.1
  unfold Machine.releaseReset
  split
  · exact {
      legal := h.legal
      cl := List.length_replicate
      disp := List.length_replicate
      llr := List.length_replicate
      htTextIn := List.length_replicate
      candCount := Nat.zero_le _
      maxCand := toNat_ofNat_le 7 _
      curCand := hcap
      candIdx := Nat.zero_le _
      htLenIn := Nat.zero_le _
      a91 := rfl
      msg := Msg.bounded_zero
      ldpcErrors := Nat.zero_le _
      resCount := Nat.zero_le _
      res := fun _ hr => nomatch hr
      htCount := Nat.zero_le _
      htKeys := List.nodup_nil
      ht := fun _ he => nomatch he
      htTextOut := Nat.zero_le _
      pm := rfl
      pmCells := fun _ he => nomatch he
      phase := fun _ => rfl }
  · exact h

theorem engineTurn_inv {s t : State} (h : s.Inv) (ht : engineTurn s = .next t) : t.Inv := by
  rcases engineTurn_cases ht with ⟨-, rfl⟩ | ⟨-, _, _, -, -, he⟩ | ⟨-, _, _, -, -, rfl⟩
  · exact h
  · exact exec_inv h he
  · exact h.atCompletion.completeWith _

/-- Settles O12: the next event is a turn of the engine, a host access or a change of the reset input,
and each keeps the invariant. -/
theorem everyStepKeepsTheInvariant : Obligations.EveryStepKeepsTheInvariant := by
  intro s t h hstep
  have hrest : ∀ rest, ({ s with inputs := rest } : State).Inv := fun rest => { h with }
  rcases step_cases hstep with ⟨-, ht⟩ | ⟨e, rest, -, hevent⟩
  · exact engineTurn_inv h ht
  · rcases hevent with ⟨a, -, rfl⟩ | ⟨a, v, -, rfl⟩ | ⟨-, ht⟩ | ⟨-, rfl⟩ | ⟨-, rfl⟩
    · exact (hrest rest).hostRead _
    · exact (hrest rest).hostWrite _ v
    · exact engineTurn_inv (hrest rest) ht
    · exact { h with }
    · exact (hrest rest).releaseReset

end Sys2Proof.Machine
end

section
/-! HTADD on its text operand: the operand is the trimmed and uppercased text, and every outcome of the
command is decided by it. -/

namespace Sys2Proof.Machine

open Sys2Proof

/-- A text is a callsign when it has 1 to 11 characters, all of them of `T38` (R270, R271). -/
theorem validCallsign_iff (t : Text) :
    validCallsign t = true ↔ 1 ≤ t.length ∧ t.length ≤ 11 ∧ ∀ b ∈ t, b ∈ table38 := by
  simp [validCallsign, and_assoc]

/-- Upper case is the code of the letter minus 0x20 (R12). -/
theorem upper_eq_map (t : Text) :
    upper t = t.map fun b =>
      if 0x61 ≤ b.toNat ∧ b.toNat ≤ 0x7A then BitVec.ofNat 8 (b.toNat - 0x20) else b := by
  refine List.map_congr_left fun b _ => ?_
  split
  · bv_omega
  · rfl

/-- The operand of HTADD from the cells in use, split at the first and the last byte that is no space. -/
theorem State.htTextOperand_of_take {s : State} {pre mid post : Text}
    (hspace : ∀ b ∈ pre ++ post, b = spaceByte) (hhead : mid.head? ≠ some spaceByte)
    (hlast : mid.getLast? ≠ some spaceByte)
    (htake : s.htTextIn.take s.htLenIn.toNat = pre ++ mid ++ post) :
    s.htTextOperand = upper mid := by
  have htrim : trim (pre ++ mid ++ post) = mid :=
    trim_append (fun b hb => hspace b (List.mem_append_left _ hb))
      (fun b hb => hspace b (List.mem_append_right _ hb)) hhead hlast
  rw [State.htTextOperand, htake, htrim]

/-- A slot in use with the key holds the text after its replacement (R273). -/
theorem mem_replaceText_self {ht : List Slot} {key : BitVec 22} (t : Text)
    (h : (htFind22 ht key).isSome = true) : { key := key, text := t } ∈ replaceText ht key t := by
  obtain ⟨e, he⟩ := Option.isSome_iff_exists.1 h
  obtain ⟨hmem, hkey⟩ := htFind22_eq_some he
  exact List.mem_map.2 ⟨e, hmem, by rw [if_pos hkey, ← hkey]⟩

/-- HTADD raises `E_HT_INVALID` exactly for a text that is no callsign (R270, R271). -/
theorem htaddBody_code_eq_htInvalid_iff (s : State) :
    (htaddBody s).code = .htInvalid ↔ ¬ validCallsign s.htTextOperand = true := by
  rcases htaddBody_cases s with ⟨hv, e⟩ | ⟨hv, -, e⟩ | ⟨hv, -, -, e⟩ | ⟨hv, -, -, e⟩ <;> simp [e, hv]

/-- HTADD of a callsign while the table has room stores it under its key and reports the key (R270,
R273). -/
theorem htaddBody_of_room {s : State} (hv : validCallsign s.htTextOperand = true)
    (hroom : s.ht.length < s.cfg.htCap) :
    (htaddBody s).code = .ok ∧
      (htaddBody s).out.htKeyOut = (hash22 s.htTextOperand).setWidth 32 ∧
      { key := hash22 s.htTextOperand, text := s.htTextOperand } ∈ (htaddBody s).out.ht := by
  rcases htaddBody_cases s with ⟨hinvalid, -⟩ | ⟨-, hfound, e⟩ | ⟨-, -, hfull, -⟩ | ⟨-, -, -, e⟩
  · exact absurd hinvalid (by simp [hv])
  · rw [e]
    exact ⟨rfl, rfl, mem_replaceText_self _ hfound⟩
  · exact absurd hfull hroom.ne
  · rw [e]
    exact ⟨rfl, rfl, List.mem_append_right _ (List.mem_singleton.2 rfl)⟩

/-- Settles O41: the operand is read off the cells by `trim_append`, and the outcomes of HTADD are those
of its body. -/
theorem htaddNormalisesItsText : Obligations.HtaddNormalisesItsText := by
  intro s pre mid post hspace hhead hlast htake operand
  have hoperand : s.htTextOperand = operand :=
    (State.htTextOperand_of_take hspace hhead hlast htake).trans (upper_eq_map mid)
  have henter : (s.enter .hash).htTextOperand = operand := hoperand
  refine ⟨hoperand, _, exec_eq .htadd s, ?_, fun hpos hmax htable hroom => ?_⟩
  · rw [← validCallsign_iff, ← henter]
    exact htaddBody_code_eq_htInvalid_iff _
  · have hv : validCallsign (s.enter .hash).htTextOperand = true := by
      rw [henter]
      exact (validCallsign_iff operand).2 ⟨hpos, hmax, htable⟩
    obtain ⟨hcode, hkey, hmem⟩ := htaddBody_of_room hv hroom
    rw [henter] at hkey hmem
    refine ⟨hcode, ?_, hmem⟩
    rw [State.completeWith_htKeyOut, commandBody, hkey]
    exact BitVec.toNat_setWidth_of_le (by decide)

end Sys2Proof.Machine
end

section
/-! The host-writable buffers on the host port: a read after a write, and the statement about them. -/

namespace Sys2Proof.Machine

open Sys2Proof

section
variable {s : State} (hb : s.busy = false) (hr : s.inReset = false)
include hb hr

/-- A read of `A91` after a write (R25). -/
theorem hostRead_hostWrite_a91 (h : TailZero s.a91) {w k : Nat} (hw : w < 3) (hk : k < 3) (v : Word) :
    (hostRead (0x090 + 4 * k) (hostWrite (0x090 + 4 * w) v s)).readData =
      if k = w then (if w = 2 then v &&& 0xE0FFFFFF else v)
      else (hostRead (0x090 + 4 * k) s).readData := by
  rw [hostRead_a91 hb hr hk, hostWrite_a91 hb hr v hw, hostRead_a91 ?_ ?_ hk]
  exacts [bitsWord_a91_write h hw hk v, hb, hr]

/-- A read of `HARD` after a write (R24). -/
theorem hostRead_hostWrite_hard {w k : Nat} (hw : w < 6) (hk : k < 6) (v : Word) :
    (hostRead (0x0A0 + 4 * k) (hostWrite (0x0A0 + 4 * w) v s)).readData =
      if k = w then (if w = 5 then v &&& 0x0000FCFF else v)
      else (hostRead (0x0A0 + 4 * k) s).readData := by
  rw [hostRead_hard hb hr hk, hostWrite_hard hb hr v hw, hostRead_hard ?_ ?_ hk]
  exacts [bitsWord_hard_write s.hard hw hk v, hb, hr]

/-- A read of `CL` after a write of an entry below `CAND_CAP` (R22). -/
theorem hostRead_hostWrite_cl {i j w k : Nat} (hi : i < s.cl.length) (hi64 : i < 64) (hj : j < 64)
    (hw : w < 2) (hk : k < 2) (v : Word) :
    (hostRead (0x100 + 8 * j + 4 * k) (hostWrite (0x100 + 8 * i + 4 * w) v s)).readData =
      if j = i ∧ k = w then (if w = 1 then v &&& 0x0001FFFF else v)
      else (hostRead (0x100 + 8 * j + 4 * k) s).readData := by
  rw [hostRead_cl hb hr hj hk, hostWrite_cl hb hr v hi64 hw, hostRead_cl ?_ ?_ hj hk]
  · simp only [State.candidate, getD_set s.cl hi]
    by_cases hji : j = i
    · subst hji
      simpa using candidateWord_writeCandidate _ hw hk v
    · simp [hji]
  · exact hb
  · exact hr

/-- `CL` has no entry at or beyond `CAND_CAP` (R22): one reads zero, and a write of it is dropped. -/
theorem hostRead_cl_beyond {i w : Nat} (hi : s.cl.length ≤ i) (hi64 : i < 64) (hw : w < 2) :
    hostRead (0x100 + 8 * i + 4 * w) s = { s with readData := 0 } := by
  have hzero : ∀ w < 2, candidateWord Candidate.zero w = 0 := by decide
  rw [hostRead_cl hb hr hi64 hw, State.candidate, List.getD_eq_default _ _ hi, hzero w hw]

theorem hostWrite_cl_beyond {i w : Nat} (hi : s.cl.length ≤ i) (hi64 : i < 64) (hw : w < 2) (v : Word) :
    hostWrite (0x100 + 8 * i + 4 * w) v s = s := by
  rw [hostWrite_cl hb hr v hi64 hw, List.set_eq_of_length_le hi]

/-- A read of `LLR` after a write (R23). -/
theorem hostRead_hostWrite_llr (h : s.llr.length = 174) {w k : Nat} (hw : w < 87) (hk : k < 87)
    (v : Word) :
    (hostRead (0x400 + 4 * k) (hostWrite (0x400 + 4 * w) v s)).readData =
      if k = w then v else (hostRead (0x400 + 4 * k) s).readData := by
  rw [hostRead_llr hb hr hk, hostWrite_llr hb hr v hw, hostRead_llr ?_ ?_ hk]
  exacts [llrWord_write h hw k v, hb, hr]

/-- A read of `HT_TEXT_IN` after a write (R42). -/
theorem hostRead_hostWrite_htTextIn (h : s.htTextIn.length = 16) {w k : Nat} (hw : w < 4) (hk : k < 4)
    (v : Word) :
    (hostRead (0x070 + 4 * k) (hostWrite (0x070 + 4 * w) v s)).readData =
      if k = w then v else (hostRead (0x070 + 4 * k) s).readData := by
  rw [hostRead_htTextIn hb hr hk, hostWrite_htTextIn hb hr v hw, hostRead_htTextIn ?_ ?_ hk]
  exacts [cellsWord_writeCells (by omega) v k, hb, hr]

/-- An entry of `CL` below `CAND_CAP` in its two words (R22). -/
theorem hostRead_cl_entry {i : Nat} {c : Candidate} (hc : s.cl[i]? = some c) (hi64 : i < 64) :
    (hostRead (0x100 + 8 * i) s).readData.toNat = c.timeOffset.toNat * 2 ^ 16 + c.score.toNat ∧
    (hostRead (0x104 + 8 * i) s).readData.toNat = c.freqSub.toNat * 2 ^ 16 + c.freqOffset.toNat := by
  have hcand : s.candidate i = c := by
    rw [State.candidate, List.getD_eq_getElem?_getD, hc, Option.getD_some]
  have hlow := hostRead_cl hb hr hi64 (w := 0) (by decide)
  have hhigh := hostRead_cl hb hr hi64 (w := 1) (by decide)
  rw [hcand] at hlow hhigh
  rw [show 0x100 + 8 * i = 0x100 + 8 * i + 4 * 0 from rfl, hlow,
    show 0x104 + 8 * i = 0x100 + 8 * i + 4 * 1 by omega, hhigh]
  exact ⟨toNat_candidateWord_zero c, toNat_candidateWord_one c⟩

end

/-- Settles O58, buffer by buffer: the layout of the words, then a read after a write. -/
theorem bitBufferWordsReadBackAsWritten : Obligations.BitBufferWordsReadBackAsWritten := by
  intro s h hb hr
  have hcl64 : s.cl.length ≤ 64 := by
    obtain ⟨-, -, -, hcap, -⟩ := Config.bounds_of_legal h.legal
    exact h.cl.trans_le hcap
  refine ⟨⟨?readA91, ?readHard, ?readCl, ?readClBeyond, ?readLlr, ?readText⟩, fun v =>
    ⟨?writeA91, ?writeHard, ?writeCl, ?writeLlr, ?writeText⟩⟩
  case readA91 =>
    exact bitsLaidOut_of_bitsWord (fun _ => rfl) (le_refl 96) fun w hw => hostRead_a91 hb hr hw
  case readHard =>
    exact bitsLaidOut_of_bitsWord (getMsbD_hardBytes s.hard) (le_refl 192) fun w hw =>
      hostRead_hard hb hr hw
  case readCl =>
    intro i c hc
    have hi : i < s.cl.length := (List.getElem?_eq_some_iff.1 hc).1
    exact hostRead_cl_entry hb hr hc (hi.trans_le hcl64)
  case readClBeyond =>
    exact fun i w hi hi64 hw => hostRead_cl_beyond hb hr (h.cl.trans_le hi) hi64 hw
  case readLlr =>
    exact fun w hw => (congrArg BitVec.toNat (hostRead_llr hb hr hw)).trans (toNat_append_eq ..)
  case readText =>
    intro b hbyte
    dsimp only
    rw [hostRead_htTextIn hb hr (by omega), byteLane_cellsWord]
  case writeA91 =>
    exact fun w hw => ⟨by rw [hostWrite_a91 hb hr v hw],
      fun k hk => hostRead_hostWrite_a91 hb hr h.a91 hw hk v⟩
  case writeHard =>
    exact fun w hw => ⟨by rw [hostWrite_hard hb hr v hw],
      fun k hk => hostRead_hostWrite_hard hb hr hw hk v⟩
  case writeCl =>
    intro i hi64 w hw
    refine ⟨fun hi => hostWrite_cl_beyond hb hr (h.cl.trans_le hi) hi64 hw v, fun hi => ⟨?_, ?_⟩⟩
    · rw [hostWrite_cl hb hr v hi64 hw]
    · exact fun j hj k hk => hostRead_hostWrite_cl hb hr (hi.trans_eq h.cl.symm) hi64 hj hw hk v
  case writeLlr =>
    exact fun w hw => ⟨by rw [hostWrite_llr hb hr v hw],
      fun k hk => hostRead_hostWrite_llr hb hr h.llr hw hk v⟩
  case writeText =>
    exact fun w hw => ⟨by rw [hostWrite_htTextIn hb hr v hw],
      fun k hk => hostRead_hostWrite_htTextIn hb hr h.htTextIn hw hk v⟩

end Sys2Proof.Machine
end

section
/-! What each kind of step leaves unchanged: the configuration across every step, the hash table across
all but HTADD and the release of reset. -/

namespace Sys2Proof.Machine

open Sys2Proof

/-! ### What no host access writes -/

/-- `t` differs from `s` in nothing that is out of the host's reach: the configuration (R21), the hash
table (R43) and the reset input. -/
structure HostFrame (s t : State) : Prop where
  cfg : t.cfg = s.cfg
  ht : t.ht = s.ht
  inReset : t.inReset = s.inReset

theorem HostFrame.accept (w : Word) (s : State) : HostFrame s (s.accept w) := by
  rw [accept_eq]
  exact ⟨rfl, rfl, rfl⟩

theorem HostFrame.writeLocation (v : Word) (s : State) (l : Location) :
    HostFrame s (writeLocation v s l) := by
  cases l with
  | cmd => exact .accept v s
  | _ => exact ⟨rfl, rfl, rfl⟩

theorem HostFrame.hostRead (a : Nat) (s : State) : HostFrame s (hostRead a s) := by
  rcases hostRead_cases a s with ⟨-, e⟩ | ⟨-, _, -, -, e⟩ | ⟨-, -, e⟩ <;> rw [e] <;>
    exact ⟨rfl, rfl, rfl⟩

theorem HostFrame.hostWrite (a : Nat) (v : Word) (s : State) : HostFrame s (hostWrite a v s) := by
  rcases hostWrite_cases a v s with ⟨-, e⟩ | ⟨-, l, -, -, e⟩ | ⟨-, -, e⟩ <;> rw [e]
  · exact ⟨rfl, rfl, rfl⟩
  · exact .writeLocation v s l
  · exact ⟨rfl, rfl, rfl⟩

/-! ### The configuration -/

theorem EngineFrame.exec {i : Instr} {s t : State} (h : exec i s = .next t) : EngineFrame s t := by
  rw [exec_eq, Host.Outcome.next.injEq] at h
  rw [← h]
  exact (EngineFrame.commandBody i s).trans (.completeWith _ _)

theorem EngineFrame.engineTurn {s t : State} (h : engineTurn s = .next t) : EngineFrame s t := by
  rcases engineTurn_cases h with ⟨-, rfl⟩ | ⟨-, _, _, -, -, he⟩ | ⟨-, _, _, -, -, rfl⟩
  · exact .refl t
  · exact .exec he
  · exact .completeWith _ s

@[simp] theorem releaseReset_cfg (s : State) : (releaseReset s).cfg = s.cfg := by
  unfold releaseReset
  split <;> rfl

/-- Settles O15, event by event. -/
theorem noStepChangesTheConfiguration : Obligations.NoStepChangesTheConfiguration := by
  intro s t hstep
  rcases step_cases hstep with ⟨-, ht⟩ | ⟨_, rest, -, hevent⟩
  · exact (EngineFrame.engineTurn ht).cfg
  · rcases hevent with ⟨a, -, rfl⟩ | ⟨a, v, -, rfl⟩ | ⟨-, ht⟩ | ⟨-, rfl⟩ | ⟨-, rfl⟩
    · exact (HostFrame.hostRead _ _).cfg
    · exact (HostFrame.hostWrite _ v _).cfg
    · exact (EngineFrame.engineTurn ht).cfg
    · rfl
    · exact releaseReset_cfg _

/-! ### The hash table -/

theorem extractBody_ht (idx : Nat) (s : State) : (extractBody idx s).out.ht = s.ht := by
  rcases extractBody_cases idx s with ⟨-, e⟩ | ⟨-, -, e⟩ | ⟨-, -, e⟩ <;> rw [e] <;> rfl

theorem ldpcBody_ht (s : State) : (ldpcBody s).out.ht = s.ht := by
  rcases ldpcBody_cases s with ⟨-, e⟩ | ⟨-, e⟩ <;> rw [e] <;> rfl

theorem checkBody_ht (s : State) : (checkBody s).out.ht = s.ht := by
  rcases checkBody_cases s with ⟨-, e⟩ | ⟨-, e⟩ <;> rw [e] <;> rfl

theorem unpackBody_ht (s : State) : (unpackBody s).out.ht = s.ht := by
  rcases unpackBody_cases s with ⟨-, e⟩ | ⟨-, _, -, e⟩ | ⟨-, _, -, e⟩ <;> rw [e] <;> rfl

theorem storeBody_ht (s : State) : (storeBody s).out.ht = s.ht := by
  rcases storeBody_cases s with ⟨-, e⟩ | ⟨-, -, e⟩ | ⟨-, -, -, e⟩ | ⟨-, -, -, e⟩ <;> rw [e] <;> rfl

theorem lookupResult_ht (found : Option Slot) (s : State) : (lookupResult found s).ht = s.ht := by
  rw [lookupResult_eq]

/-- DECODE runs the stages, none of which writes the table (R43, R307). -/
theorem decodeBody_ht (s : State) : (decodeBody s).out.ht = s.ht :=
  decodeBody_keeps (P := fun t => t.ht = s.ht) (N := 127)
    (fun t _ => Nat.le_of_lt_succ t.candCount.isLt) (fun _ _ _ _ h => h) (fun _ h => h)
    (fun _ h => h) (fun _ _ h => h) (fun idx t h => (extractBody_ht idx t).trans h)
    (fun t h => (ldpcBody_ht t).trans h) (fun t h => (checkBody_ht t).trans h)
    (fun t h => (unpackBody_ht t).trans h) (fun t h => (storeBody_ht t).trans h) rfl

/-- Of all commands only HTADD writes the table (R43). -/
theorem commandBody_ht {i : Instr} (hi : i ≠ .htadd) (s : State) :
    (commandBody i s).out.ht = s.ht := by
  cases i with
  | nop | sync | clrres => rfl
  | extract idx => exact extractBody_ht idx _
  | ldpc => exact ldpcBody_ht _
  | check => exact checkBody_ht _
  | unpack => exact unpackBody_ht _
  | store => exact storeBody_ht _
  | decode => exact decodeBody_ht s
  | htadd => exact absurd rfl hi
  | htlook | htlook12 => exact lookupResult_ht _ _

/-- HTADD that changes the table succeeds, and keeps every key in its place (R43, R273). -/
theorem htaddBody_of_ht_ne {s : State} (h : (htaddBody s).out.ht ≠ s.ht) :
    (htaddBody s).code = .ok ∧ s.ht.map Slot.key <+: (htaddBody s).out.ht.map Slot.key := by
  rcases htaddBody_cases s with ⟨-, e⟩ | ⟨-, -, e⟩ | ⟨-, -, -, e⟩ | ⟨-, -, -, e⟩ <;> rw [e] at h ⊢
  · exact absurd rfl h
  · exact ⟨rfl, (map_key_replaceText ..).symm ▸ List.prefix_refl _⟩
  · exact absurd rfl h
  · exact ⟨rfl, (List.prefix_append _ _).map _⟩

/-- A turn of the engine that changes the table completes an HTADD without an error. -/
theorem engineTurn_of_ht_ne {s t : State} (h : engineTurn s = .next t) (hne : t.ht ≠ s.ht) :
    ∃ w, s.running = some w ∧ decode w = .ok .htadd ∧ t.err = .ok ∧
      s.ht.map Slot.key <+: t.ht.map Slot.key := by
  rcases engineTurn_cases h with ⟨-, rfl⟩ | ⟨-, w, i, hw, hd, he⟩ | ⟨-, _, _, -, -, rfl⟩
  · exact absurd rfl hne
  · rw [exec_eq, Host.Outcome.next.injEq] at he
    subst he
    by_cases hi : i = .htadd
    · subst hi
      exact ⟨w, hw, hd, htaddBody_of_ht_ne hne⟩
    · exact absurd (commandBody_ht hi s) hne
  · exact absurd rfl hne

/-- A release of the reset input that changes the table is one of an asserted reset, and empties it
(R350, R351). -/
theorem releaseReset_of_ht_ne {s : State} (h : (releaseReset s).ht ≠ s.ht) :
    s.inReset = true ∧ (releaseReset s).ht = [] := by
  unfold releaseReset at h ⊢
  split at h
  · next hr => exact ⟨hr, by rw [if_pos hr]; rfl⟩
  · exact absurd rfl h

/-- Settles O16: a host access and the assertion of reset leave the table as it is. -/
theorem onlyHtaddAndResetChangeTheTable : Obligations.OnlyHtaddAndResetChangeTheTable := by
  intro s t hstep hne
  rcases step_cases hstep with ⟨-, ht⟩ | ⟨_, rest, hinputs, hevent⟩
  · exact .inr (engineTurn_of_ht_ne ht hne)
  · rcases hevent with ⟨a, -, rfl⟩ | ⟨a, v, -, rfl⟩ | ⟨-, ht⟩ | ⟨-, rfl⟩ | ⟨rfl, rfl⟩
    · exact absurd (HostFrame.hostRead _ _).ht hne
    · exact absurd (HostFrame.hostWrite _ v _).ht hne
    · have hadd := engineTurn_of_ht_ne ht hne
      exact .inr hadd
    · exact absurd rfl hne
    · obtain ⟨hreset, hempty⟩ := releaseReset_of_ht_ne hne
      exact .inl ⟨hreset, hempty, by rw [hinputs]; rfl⟩

end Sys2Proof.Machine
end

section
/-! The registers on the host port: how each reads, field by field, and what a write of one leaves. -/

namespace Sys2Proof.Machine

open Sys2Proof

/-! ### `STATUS` -/

/-- A write to `STATUS` clears the bits 1, 8, 9, 10 that are written as 1 (R40). -/
theorem statusWord_writeStatus (v : Word) (s : State) :
    (s.writeStatus v).statusWord = s.statusWord &&& ~~~(v &&& 0x00000702) := by
  have hmask : ∀ i < 32, (0x00000702 : Word).getLsbD i = decide (i ∈ [1, 8, 9, 10]) := by decide
  refine BitVec.eq_of_getLsbD_eq fun i hi => ?_
  rw [BitVec.getLsbD_and, BitVec.getLsbD_not, BitVec.getLsbD_and, hmask i hi]
  simp only [State.statusWord, BitVec.getLsbD_append, hi, flagBit]
  interval_cases i <;> simp [State.busy]

/-- The engine never keeps the host from `STATUS` (R78). -/
theorem hostRead_status {s : State} (hr : s.inReset = false) :
    hostRead 0x008 s = { s with readData := s.statusWord } := by
  have htarget : target s.cfg 0x008 = some .status := target_addr (l := .status) trivial
  simp [hostRead, hr, htarget, State.excludes, statusAddr, readLocation]

theorem hostWrite_status {s : State} (hr : s.inReset = false) (v : Word) :
    hostWrite 0x008 v s = s.writeStatus v := by
  have htarget : writeTarget s.cfg 0x008 = some .status := by
    rw [writeTarget, show target s.cfg 0x008 = some .status from target_addr (l := .status) trivial,
      Option.filter_some_pos rfl]
  simp [hostWrite, hr, htarget, State.excludes, statusAddr, writeLocation]

/-- A write event is the host write of its address and value (R79). -/
theorem step_write {s : State} {a : BitVec 25} {v : Word} {rest : List Event}
    (h : s.inputs = .write a v :: rest) :
    step s = .next (hostWrite a.toNat v { s with inputs := rest }) := by
  simp [step, nextEvent, h]

/-- Settles O56: the write is `writeStatus`, busy or not. -/
theorem statusWriteClearsTheWrittenFlags : Obligations.StatusWriteClearsTheWrittenFlags := by
  intro s v rest hr hinputs
  have hwrite := hostWrite_status (s := { s with inputs := rest }) hr v
  exact ⟨_, (step_write hinputs).trans (congrArg _ hwrite), rfl,
    statusWord_writeStatus v { s with inputs := rest }⟩

/-! ### A register after a write -/

/-- A write other than to `CMD` starts nothing (R39). -/
theorem busy_writeLocation (v : Word) (s : State) {l : Location} (hl : l ≠ .cmd) :
    (writeLocation v s l).busy = s.busy := by
  cases l with
  | cmd => exact absurd rfl hl
  | _ => rfl

/-- A field of `n` bits reads back the low `n` bits written (R72). -/
theorem toNat_setWidth_field {n : Nat} (hn : n ≤ 32) (v : Word) :
    ((v.setWidth n).setWidth 32).toNat = v.toNat % 2 ^ n := by
  rw [BitVec.toNat_setWidth_of_le hn, BitVec.toNat_setWidth]

/-- A WARL field wide enough for its bound reads back the clamped value (R31, R37, R42). -/
theorem toNat_warl_field {n bound : Nat} (hn : n ≤ 32) (hbound : bound < 2 ^ n) (v : Word) :
    ((BitVec.ofNat n (warl v bound)).setWidth 32).toNat = min v.toNat bound := by
  rw [BitVec.toNat_setWidth_of_le hn, BitVec.toNat_ofNat, warl]
  exact Nat.mod_eq_of_lt ((min_le_right _ _).trans_lt hbound)

/-- The four flags of `VALID` are the four bits written (R28). -/
theorem toBits_ofBits (b : BitVec 4) : (Valid.ofBits b).toBits = b := by
  revert b
  decide

/-- `CTRL` reads back the one bit written (R41). -/
theorem toNat_ctrlWord_write (v : Word) (s : State) :
    (readLocation (writeLocation v s .ctrl) .ctrl).toNat = v.toNat % 2 := by
  have hbit : flagBit (v.getLsbD 0) = v.setWidth 1 := by
    refine BitVec.eq_of_getLsbD_eq fun i hi => ?_
    interval_cases i
    simp [flagBit]
  rw [← pow_one 2, ← toNat_setWidth_field (by decide) v, ← hbit]
  rfl

/-- `VALID` reads back the four bits written (R28). -/
theorem toNat_validWord_write (v : Word) (s : State) :
    (readLocation (writeLocation v s .valid) .valid).toNat = v.toNat % 2 ^ 4 := by
  rw [← toNat_setWidth_field (by decide) v, ← toBits_ofBits (v.setWidth 4)]
  rfl

section
variable {s : State} {l : Location} (hb : s.busy = false) (hr : s.inReset = false)
include hb hr

/-- A location of an idle block that is written and read gives the word its rules say (R71, R72). -/
theorem hostRead_hostWrite_addr (hl : l.inBuffer s.cfg) (hw : l.writable = true) (hcmd : l ≠ .cmd)
    (v : Word) :
    (hostRead l.addr (hostWrite l.addr v s)).readData = readLocation (writeLocation v s l) l := by
  have hframe := HostFrame.writeLocation v s l
  rw [hostWrite_addr hb hr hl hw, hostRead_addr]
  · exact (busy_writeLocation v s hcmd).trans hb
  · exact hframe.inReset.trans hr
  · rwa [hframe.cfg]

/-- What the rules of a location say of its word and of the state after a write, holds of the two
accesses of an idle block. -/
theorem hostWrite_reads_back (P : State → Prop) (l : Location) {n : Nat} (hl : l.inBuffer s.cfg)
    (hw : l.writable = true) (hcmd : l ≠ .cmd) (v : Word)
    (hread : (readLocation (writeLocation v s l) l).toNat = n) (hP : P (writeLocation v s l)) :
    (hostRead l.addr (hostWrite l.addr v s)).readData.toNat = n ∧ P (hostWrite l.addr v s) := by
  rw [hostRead_hostWrite_addr hb hr hl hw hcmd, hostWrite_addr hb hr hl hw]
  exact ⟨hread, hP⟩

end

/-- Settles O57, register by register. -/
theorem controlRegistersReadBackAsWritten : Obligations.ControlRegistersReadBackAsWritten := by
  refine ⟨fun s a v rest h => step_write h, fun s v hlegal hb hr => ?_⟩
  have hcap : s.cfg.candCap < 2 ^ 7 := by
    obtain ⟨-, -, -, hcap, -⟩ := Config.bounds_of_legal hlegal
    omega
  have writeReads := @hostWrite_reads_back s hb hr
  exact ⟨
    writeReads (fun t => t = { s with ie := t.ie }) .ctrl trivial rfl nofun v
      (toNat_ctrlWord_write v s) rfl,
    writeReads (fun t => t = { s with minScore := t.minScore }) .minScore trivial rfl nofun v
      (toNat_setWidth_field (by decide) v) rfl,
    writeReads (fun t => t = { s with maxCand := t.maxCand }) .maxCand trivial rfl nofun v
      (toNat_warl_field (by decide) hcap v) rfl,
    writeReads (fun t => t = { s with maxIter := t.maxIter }) .maxIter trivial rfl nofun v
      (toNat_setWidth_field (by decide) v) rfl,
    writeReads (fun t => t = { s with syncMap := t.syncMap }) .syncMap trivial rfl nofun v
      (toNat_setWidth_field (by decide) v) rfl,
    writeReads (fun t => t = { s with grayMap := t.grayMap }) .grayMap trivial rfl nofun v
      (toNat_setWidth_field (by decide) v) rfl,
    writeReads (fun t => t = { s with baseBin := t.baseBin }) .baseBin trivial rfl nofun v
      (toNat_setWidth_field (by decide) v) rfl,
    writeReads (fun t => t = { s with slotSeq := v }) .slotSeq trivial rfl nofun v
      rfl rfl,
    writeReads (fun t => t = { s with timestamp := v }) .timestamp trivial rfl nofun v
      rfl rfl,
    writeReads (fun t => t = { s with valid := t.valid }) .valid trivial rfl nofun v
      (toNat_validWord_write v s) rfl,
    writeReads (fun t => t = { s with candCount := t.candCount }) .candCount trivial rfl nofun v
      (toNat_warl_field (by decide) hcap v) rfl,
    writeReads (fun t => t = { s with htKeyIn := t.htKeyIn }) .htKeyIn trivial rfl nofun v
      (toNat_setWidth_field (by decide) v) rfl,
    writeReads (fun t => t = { s with htLenIn := t.htLenIn }) .htLenIn trivial rfl nofun v
      (toNat_warl_field (by decide) (by decide) v) rfl⟩

end Sys2Proof.Machine
end

section
/-! The layout of the registers on the host port, field by field. -/

namespace Sys2Proof.Machine

open Sys2Proof

/-! ### Words with several fields -/

theorem toNat_flagBit (b : Bool) : (flagBit b).toNat = b.toNat := BitVec.toNat_ofBool b

/-- `STATUS` (R40). -/
theorem toNat_statusWord (s : State) :
    s.statusWord.toNat = s.busy.toNat + 2 * s.done.toNat + 2 ^ 4 * s.err.code.toNat
      + 2 ^ 8 * s.cmdDropped.toNat + 2 ^ 9 * s.busyAcc.toNat + 2 ^ 10 * s.badAcc.toNat
      + 2 ^ 16 * s.lastOp.toNat := by
  simp only [State.statusWord, toNat_append_eq, toNat_flagBit, BitVec.ofNat_eq_ofNat,
    BitVec.toNat_zero]
  ring

/-- `VALID` (R28). -/
theorem toNat_toBits (v : Valid) :
    v.toBits.toNat = v.llrRdy.toNat + 2 * v.cwOk.toNat + 4 * v.payOk.toNat + 8 * v.msgOk.toNat := by
  simp only [Valid.toBits, toNat_append_eq, toNat_flagBit]
  ring

/-- `SEQ` (R26). -/
theorem toNat_seqWord (s : State) :
    s.seqWord.toNat = s.phase.code.toNat + 2 ^ 8 * s.candIdx.toNat + 2 ^ 16 * s.curCand.toNat := by
  simp only [State.seqWord, toNat_append_eq, BitVec.ofNat_eq_ofNat, BitVec.toNat_zero]
  ring

/-- `CRC_STAT` (R29). -/
theorem toNat_crcStatWord (s : State) :
    s.crcStatWord.toNat = s.crcRx.toNat + 2 ^ 16 * s.crcCalc.toNat + 2 ^ 31 * s.crcOk.toNat := by
  simp only [State.crcStatWord, toNat_append_eq, toNat_flagBit, BitVec.ofNat_eq_ofNat,
    BitVec.toNat_zero]
  ring

/-- `MSG_STAT` (R29). -/
theorem toNat_msgStatWord (s : State) :
    s.msgStatWord.toNat = s.ufail.code.toNat + 2 ^ 4 * s.i3.toNat + 2 ^ 8 * s.n3.toNat := by
  simp only [State.msgStatWord, toNat_append_eq, BitVec.ofNat_eq_ofNat, BitVec.toNat_zero]
  ring

/-- `LDPC_STAT` (R29). -/
theorem toNat_ldpcStatWord (s : State) :
    (readLocation s .ldpcStat).toNat = s.ldpcErrors.toNat + 2 ^ 8 * s.ldpcIter.toNat := by
  simp only [readLocation, toNat_append_eq, BitVec.ofNat_eq_ofNat, BitVec.toNat_zero]
  ring

/-! ### Numbers in their fields -/

theorem toNat_ofNat_of_lt {n x : Nat} (hx : x < 2 ^ n) : (BitVec.ofNat n x).toNat = x := by
  rw [BitVec.toNat_ofNat, Nat.mod_eq_of_lt hx]

/-- The bounds of R7 and R38 on the two numbers of symbol periods and of rows in each. -/
theorem Config.rowBounds_of_legal {p : Config.Params} (h : p.legal = true) :
    p.numBlocks ≤ 65535 ∧ p.timeOsr ≤ 255 := by
  simp only [Config.Params.legal, Bool.and_eq_true, decide_eq_true_eq] at h
  omega

theorem toNat_resCountWord {s : State} (h : s.res.length < 2 ^ 4) :
    (readLocation s .resCount).toNat = s.res.length := by
  rw [readLocation, BitVec.toNat_setWidth_of_le (by decide), State.resCount, toNat_ofNat_of_lt h]

theorem toNat_htLenOutWord {s : State} (h : s.htTextOut.length < 2 ^ 4) :
    (readLocation s .htLenOut).toNat = s.htTextOut.length := by
  rw [readLocation, BitVec.toNat_setWidth_of_le (by decide), toNat_ofNat_of_lt h]

/-- `GEOM0` and `GEOM1` of a legal configuration (R38). -/
theorem toNat_geom0Word {s : State} (h : s.cfg.legal = true) :
    (readLocation s .geom0).toNat = s.cfg.numBins + 2 ^ 16 * s.cfg.numBlocks := by
  obtain ⟨-, hbins, -⟩ := Config.bounds_of_legal h
  obtain ⟨hblocks, -⟩ := Config.rowBounds_of_legal h
  rw [readLocation, toNat_append_eq, toNat_ofNat_of_lt (by omega), toNat_ofNat_of_lt (by omega)]
  ring

theorem toNat_geom1Word {s : State} (h : s.cfg.legal = true) :
    (readLocation s .geom1).toNat = s.cfg.timeOsr + 2 ^ 8 * 2 + 2 ^ 16 * s.cfg.candCap := by
  obtain ⟨-, -, -, hcap, -⟩ := Config.bounds_of_legal h
  obtain ⟨-, hosr⟩ := Config.rowBounds_of_legal h
  simp only [readLocation, toNat_append_eq, BitVec.ofNat_eq_ofNat, BitVec.toNat_zero]
  rw [toNat_ofNat_of_lt (x := s.cfg.candCap) (by omega),
    toNat_ofNat_of_lt (x := s.cfg.timeOsr) (by omega), toNat_ofNat_of_lt (x := 2) (by decide)]
  ring

/-- `HT_INFO` (R42). -/
theorem toNat_htInfoWord {s : State} (h : s.Inv) :
    (readLocation s .htInfo).toNat = s.ht.length + 2 ^ 16 * s.cfg.htCap := by
  obtain ⟨-, -, -, -, hcap, -⟩ := Config.bounds_of_legal h.legal
  have hcount := h.htCount
  rw [readLocation, toNat_append_eq, State.htCount, toNat_ofNat_of_lt (by omega),
    toNat_ofNat_of_lt (by omega)]
  ring

/-! ### The reads of an idle block -/

section
variable {s : State} (hb : s.busy = false) (hr : s.inReset = false)
include hb hr

/-- A read of an idle block has the value of the location's word (R71). -/
theorem toNat_hostRead_addr (l : Location) (hl : l.inBuffer s.cfg) {n : Nat}
    (hword : (readLocation s l).toNat = n) : (hostRead l.addr s).readData.toNat = n := by
  rw [hostRead_addr hb hr hl, hword]

/-- A register of one field reads as the field, zero-extended (R71). -/
theorem toNat_hostRead_field (l : Location) (hl : l.inBuffer s.cfg) {n : Nat} (x : BitVec n)
    (hn : n ≤ 32) (hword : readLocation s l = x.setWidth 32) :
    (hostRead l.addr s).readData.toNat = x.toNat :=
  toNat_hostRead_addr hb hr l hl (hword ▸ BitVec.toNat_setWidth_of_le hn)

/-- `HT_TEXT_OUT` reads byte by byte, zero beyond the text (R12, R42). -/
theorem byteLane_hostRead_htTextOut {b : Nat} (hbyte : b < 12) :
    byteLane (hostRead (0x080 + 4 * (b / 4)) s).readData (b % 4) = (s.htTextOut.getD b 0).toNat := by
  have hl : b / 4 < 3 := by omega
  have hword : (hostRead (0x080 + 4 * (b / 4)) s).readData = cellsWord s.htTextOut (b / 4) :=
    congrArg State.readData (hostRead_addr (l := .htTextOut (b / 4)) hb hr hl)
  rw [hword, byteLane_cellsWord]

end

/-- Settles O60, register by register in the order of the address map. -/
theorem registersReadInTheirLayout : Obligations.RegistersReadInTheirLayout := by
  refine ⟨fun s hr => ⟨Option.isSome_iff_exists, ?status⟩, fun s h hb hr => ?idle, rfl, rfl, rfl, rfl,
    rfl⟩
  case status => rw [hostRead_status hr, toNat_statusWord]
  case idle =>
    have word := @toNat_hostRead_addr s hb hr
    have field := @toNat_hostRead_field s hb hr
    exact ⟨
      word .id trivial rfl,
      word .cmd trivial rfl,
      (field .ctrl trivial (flagBit s.ie) (by decide) rfl).trans (toNat_flagBit s.ie),
      field .minScore trivial s.minScore (by decide) rfl,
      field .maxCand trivial s.maxCand (by decide) rfl,
      field .maxIter trivial s.maxIter (by decide) rfl,
      field .syncMap trivial s.syncMap (by decide) rfl,
      field .grayMap trivial s.grayMap (by decide) rfl,
      field .baseBin trivial s.baseBin (by decide) rfl,
      word .slotSeq trivial rfl,
      word .timestamp trivial rfl,
      (field .valid trivial s.valid.toBits (by decide) rfl).trans (toNat_toBits s.valid),
      field .candCount trivial s.candCount (by decide) rfl,
      word .seq trivial (toNat_seqWord s),
      word .ldpcStat trivial (toNat_ldpcStatWord s),
      word .crcStat trivial (toNat_crcStatWord s),
      word .msgStat trivial (toNat_msgStatWord s),
      word .resCount trivial (toNat_resCountWord (h.resCount.trans_lt (by decide))),
      word .geom0 trivial (toNat_geom0Word h.legal),
      word .geom1 trivial (toNat_geom1Word h.legal),
      word .htInfo trivial (toNat_htInfoWord h),
      field .htKeyIn trivial s.htKeyIn (by decide) rfl,
      word .htKeyOut trivial rfl,
      field .htLenIn trivial s.htLenIn (by decide) rfl,
      word .htLenOut trivial (toNat_htLenOutWord (h.htTextOut.trans_lt (by decide))),
      fun b hbyte => byteLane_hostRead_htTextOut hb hr hbyte⟩

end Sys2Proof.Machine
end

section
/-! The two host accesses on any block: which addresses the map refuses (R73, R74), what a busy engine
excludes (R78), and what a refused access leaves. -/

namespace Sys2Proof.Machine

open Sys2Proof

/-! ### The address map -/

/-- No address of a mapped word is in an unmapped range (R74). -/
theorem not_unmappedAddress_addr {p : Config.Params} {l : Location} (h : l.inBuffer p) :
    ¬ UnmappedAddress p l.addr := by
  cases l with
  | htTextIn w | htTextOut w | a91 w | hard w | msg w | disp w | llr w | pm w | cl i w | res i w =>
    simp only [Location.inBuffer] at h
    simp only [UnmappedAddress, Location.addr]
    omega
  | _ =>
    simp only [UnmappedAddress, Location.addr]
    omega

/-- The control and status registers fill their range of the map (R30 to R42). -/
theorem controlLocation_ne_none {k : Nat} (hk : k < 26) : controlLocation k ≠ none := by
  rw [controlLocation, Ne, List.getElem?_eq_none_iff]
  exact Nat.not_le.2 hk

/-- An address outside the unmapped ranges is mapped (R74). -/
theorem locate_ne_none {p : Config.Params} {a : Nat} (h : ¬ UnmappedAddress p a) : locate p a ≠ none := by
  have hrange : a < 0x068 ∨ (0x070 ≤ a ∧ a < 0x080) ∨ (0x080 ≤ a ∧ a < 0x08C) ∨ (0x090 ≤ a ∧ a < 0x09C) ∨
      (0x0A0 ≤ a ∧ a < 0x0B8) ∨ (0x0C0 ≤ a ∧ a < 0x0F4) ∨ (0x100 ≤ a ∧ a < 0x300) ∨
      (0x300 ≤ a ∧ a < 0x340) ∨ (0x400 ≤ a ∧ a < 0x55C) ∨ (0x800 ≤ a ∧ a < 0xB00) ∨
      (0x1000000 ≤ a ∧ a < 0x1000000 + 4 * p.pmWords) := by
    simp only [UnmappedAddress] at h
    omega
  rcases hrange with hcontrol | hbuffer
  · rw [locate, if_pos hcontrol]
    exact controlLocation_ne_none (by omega)
  · rcases hbuffer with h | h | h | h | h | h | h | h | h | h <;>
      simp (disch := omega) only [locate, if_pos, if_neg] <;> exact nofun

/-- An aligned address is unmapped exactly in the ranges of R74. -/
theorem locate_eq_none_iff {p : Config.Params} {a : Nat} (ha : a % 4 = 0) :
    locate p a = none ↔ UnmappedAddress p a := by
  refine ⟨fun h => by_contra fun hmapped => locate_ne_none hmapped h, fun h => by_contra fun hmapped => ?_⟩
  obtain ⟨l, hl⟩ := Option.ne_none_iff_exists'.1 hmapped
  obtain ⟨rfl, hbuf⟩ := locate_addr ha hl
  exact not_unmappedAddress_addr hbuf h

/-- A mapped word is at a read-only address exactly if it is not writable (R74). -/
theorem readOnlyAddress_addr {p : Config.Params} {l : Location} (h : l.inBuffer p) :
    ReadOnlyAddress l.addr ↔ l.writable = false := by
  cases l with
  | htTextIn w | htTextOut w | a91 w | hard w | msg w | disp w | llr w | pm w | cl i w | res i w =>
    simp only [Location.inBuffer] at h
    simp only [ReadOnlyAddress, Location.addr, Location.writable, List.mem_cons,
      List.not_mem_nil, or_false, Bool.true_eq_false, iff_true, iff_false]
    omega
  | _ => simp [ReadOnlyAddress, Location.addr, Location.writable]

/-- A misaligned access reaches no location (R73). -/
theorem target_of_misaligned (p : Config.Params) {a : Nat} (ha : a % 4 ≠ 0) : target p a = none :=
  if_neg ha

theorem writeTarget_of_misaligned (p : Config.Params) {a : Nat} (ha : a % 4 ≠ 0) :
    writeTarget p a = none := by
  rw [writeTarget, target_of_misaligned p ha, Option.filter_none]

/-- An aligned access reaches no location exactly in the unmapped ranges (R74). -/
theorem target_eq_none_iff {p : Config.Params} {a : Nat} (ha : a % 4 = 0) :
    target p a = none ↔ UnmappedAddress p a := by
  rw [target, if_pos ha, locate_eq_none_iff ha]

/-- An aligned write reaches no location it may change exactly in the unmapped ranges and at the
read-only addresses (R74). -/
theorem writeTarget_eq_none_iff {p : Config.Params} {a : Nat} (ha : a % 4 = 0) :
    writeTarget p a = none ↔ UnmappedAddress p a ∨ ReadOnlyAddress a := by
  rw [← target_eq_none_iff ha, writeTarget]
  cases htarget : target p a with
  | none => simp
  | some l =>
    have hlocate : locate p a = some l := by rwa [target, if_pos ha] at htarget
    obtain ⟨rfl, hbuf⟩ := locate_addr ha hlocate
    simp [readOnlyAddress_addr hbuf]

/-! ### Exclusion -/

/-- The engine leaves an access alone exactly if it is idle or the access is to `STATUS` (R78). -/
theorem excludes_eq_false_iff {s : State} {a : Nat} :
    s.excludes a = false ↔ s.busy = false ∨ a = statusAddr := by
  cases hb : s.busy <;> simp [State.excludes, hb]

theorem excludes_of_ne_status (s : State) {a : Nat} (ha : a ≠ statusAddr) : s.excludes a = s.busy := by
  simp [State.excludes, ha]

/-! ### The refusals -/

/-- A refused read returns 0 and sets flags (R73, R74, R78). -/
theorem hostRead_of_refused {s : State} {a : Nat} (hr : s.inReset = false)
    (h : target s.cfg a = none ∨ s.excludes a = true) :
    hostRead a s = { s with
      readData := 0
      busyAcc := s.busyAcc || s.excludes a
      badAcc := s.badAcc || (target s.cfg a).isNone } := by
  rcases hostRead_cases a s with ⟨hreset, -⟩ | ⟨-, l, htarget, hidle, -⟩ | ⟨-, -, hread⟩
  · simp [hr] at hreset
  · simp [htarget, hidle] at h
  · simpa [State.refuseAccess] using hread

/-- A refused write sets flags and changes nothing else (R73, R74, R78). -/
theorem hostWrite_of_refused {s : State} {a : Nat} (v : Word) (hr : s.inReset = false)
    (h : writeTarget s.cfg a = none ∨ s.excludes a = true) :
    hostWrite a v s = { s with
      busyAcc := s.busyAcc || s.excludes a
      badAcc := s.badAcc || (writeTarget s.cfg a).isNone
      cmdDropped := s.cmdDropped || (s.excludes a && a == cmdAddr) } := by
  rcases hostWrite_cases a v s with ⟨hreset, -⟩ | ⟨-, l, htarget, hidle, -⟩ | ⟨-, -, hwrite⟩
  · simp [hr] at hreset
  · simp [htarget, hidle] at h
  · exact hwrite

/-- A read the engine does not exclude returns the word there (R71). -/
theorem hostRead_of_target {s : State} {a : Nat} {l : Location} (hr : s.inReset = false)
    (htarget : target s.cfg a = some l) (hx : s.excludes a = false) :
    hostRead a s = { s with readData := readLocation s l } := by
  simp [hostRead, hr, htarget, hx]

/-- A read event is the host read of its address (R79). -/
theorem step_read {s : State} {a : BitVec 25} {rest : List Event} (h : s.inputs = .read a :: rest) :
    step s = .next (hostRead a.toNat { s with inputs := rest }) := by
  simp [step, nextEvent, h]

theorem step_read_of_refused {s : State} {a : BitVec 25} {rest : List Event}
    (hin : s.inputs = .read a :: rest) (hr : s.inReset = false)
    (h : target s.cfg a.toNat = none ∨ s.excludes a.toNat = true) :
    step s = .next { s with
      inputs := rest
      readData := 0
      busyAcc := s.busyAcc || s.excludes a.toNat
      badAcc := s.badAcc || (target s.cfg a.toNat).isNone } :=
  (step_read hin).trans (congrArg _ (hostRead_of_refused (s := { s with inputs := rest }) hr h))

theorem step_write_of_refused {s : State} {a : BitVec 25} {v : Word} {rest : List Event}
    (hin : s.inputs = .write a v :: rest) (hr : s.inReset = false)
    (h : writeTarget s.cfg a.toNat = none ∨ s.excludes a.toNat = true) :
    step s = .next { s with
      inputs := rest
      busyAcc := s.busyAcc || s.excludes a.toNat
      badAcc := s.badAcc || (writeTarget s.cfg a.toNat).isNone
      cmdDropped := s.cmdDropped || (s.excludes a.toNat && a.toNat == cmdAddr) } :=
  (step_write hin).trans (congrArg _ (hostWrite_of_refused (s := { s with inputs := rest }) v hr h))

/-- Settles O53: neither access reaches a location, and its address is not that of `STATUS` or `CMD`. -/
theorem misalignedAccessIsRefused : Obligations.MisalignedAccessIsRefused := by
  intro s a rest hr hmis
  have hstatus : s.excludes a.toNat = s.busy :=
    excludes_of_ne_status s fun h => hmis (by rw [h]; rfl)
  have hcmd : (a.toNat == cmdAddr) = false := beq_eq_false_iff_ne.2 fun h => hmis (by rw [h]; rfl)
  have hread := target_of_misaligned s.cfg hmis
  have hwrite := writeTarget_of_misaligned s.cfg hmis
  refine ⟨fun hin => ?read, fun v hin => ?write⟩
  case read =>
    rw [step_read_of_refused hin hr (.inl hread), hread, hstatus]
    simp
  case write =>
    rw [step_write_of_refused hin hr (.inl hwrite), hwrite, hstatus, hcmd]
    simp

/-- Settles O54: the busy engine excludes the access, and a mapped location, for a write a writable one,
is a target. -/
theorem busyEngineExcludesTheHost : Obligations.BusyEngineExcludesTheHost := by
  intro s a rest hr hbusy hne
  have hx : s.excludes a.toNat = true :=
    (excludes_of_ne_status s fun h => hne (BitVec.eq_of_toNat_eq h)).trans hbusy
  have hcmd : (a.toNat == cmdAddr) = (a == 0x004) :=
    Bool.eq_iff_iff.2 (by rw [beq_iff_eq, beq_iff_eq, ← BitVec.toNat_inj]; rfl)
  refine ⟨fun hin => ?read, fun v hin => ?write⟩
  case read =>
    refine ⟨_, step_read_of_refused hin hr (.inr hx), ?_, fun ha hmapped => ?_⟩
    · rw [hx, Bool.or_true]
    · have htarget : target s.cfg a.toNat ≠ none := fun h => hmapped ((target_eq_none_iff ha).1 h)
      simp [htarget]
  case write =>
    refine ⟨_, step_write_of_refused hin hr (.inr hx), ?_, fun ha hmapped hro => ?_⟩
    · rw [hx, hcmd, Bool.or_true, Bool.true_and]
    · have htarget : writeTarget s.cfg a.toNat ≠ none := fun h =>
        ((writeTarget_eq_none_iff ha).1 h).elim hmapped hro
      simp [htarget]

/-- Settles O55: outside the mapped, for a write the writable, locations there is no target. -/
theorem unmappedAndReadOnlyAccessesAreRefused : Obligations.UnmappedAndReadOnlyAccessesAreRefused := by
  intro s a rest hr hidle ha
  have hx : s.excludes a.toNat = false := excludes_eq_false_iff.2 (.inl hidle)
  refine ⟨fun hin hunmapped => ?read, fun v hin hrefused => ?write⟩
  case read =>
    have htarget := (target_eq_none_iff ha).2 hunmapped
    rw [step_read_of_refused hin hr (.inl htarget), htarget, hx]
    simp
  case write =>
    have hlist : UnmappedAddress s.cfg a.toNat ∨ ReadOnlyAddress a.toNat := by
      rcases hrefused with hregister | hrange
      · exact .inr (.inl hregister)
      · simp only [UnmappedAddress, ReadOnlyAddress]
        omega
    have htarget := (writeTarget_eq_none_iff ha).2 hlist
    rw [step_write_of_refused hin hr (.inl htarget), htarget, hx]
    simp

/-! ### Acceptance and the engine's turn -/

/-- Acceptance of a legal word is its first move of `SEQ` (R101, R306). -/
theorem accept_of_decode_ok {w : Word} {i : Instr} (h : decode w = .ok i) (s : State) :
    s.accept w = firstSeq i { s with running := some w, done := false, err := .ok, lastOp := opField w } := by
  rw [State.accept, h]

/-- Acceptance of an illegal word leaves `SEQ` (R101, R104). -/
theorem accept_of_decode_error {w : Word} {e : DecodeError} (h : decode w = .error e) (s : State) :
    s.accept w = { s with running := some w, done := false, err := .ok, lastOp := opField w } := by
  rw [State.accept, h]

theorem busy_accept (w : Word) (s : State) : (s.accept w).busy = true := by
  rw [accept_eq]
  rfl

/-- A write to `CMD` of an idle block delivers the word (R39, R101). -/
theorem hostWrite_cmd {s : State} (hr : s.inReset = false) (hidle : s.busy = false) (w : Word) :
    hostWrite 0x004 w s = s.accept w :=
  hostWrite_addr (l := .cmd) hidle hr trivial rfl w

/-- Settles O6: the write is `State.accept` of an idle block and a refused access of a busy one. -/
theorem commandWriteIsAcceptedExactlyWhenIdle : Obligations.CommandWriteIsAcceptedExactlyWhenIdle := by
  intro s w rest hr hin
  refine ⟨fun hidle => ?accepted, fun hbusy => ?dropped⟩
  case accepted =>
    have hwrite := hostWrite_cmd (s := { s with inputs := rest }) hr hidle w
    refine ⟨_, (step_write hin).trans (congrArg _ hwrite), busy_accept _ _, accept_eq _ _,
      fun i hi => ?_, fun e he => ?_⟩
    · rw [accept_of_decode_ok hi]
      cases i <;> exact ⟨rfl, rfl⟩
    · rw [accept_of_decode_error he]
      exact ⟨rfl, rfl⟩
  case dropped =>
    have hx : s.excludes 0x004 = true := (excludes_of_ne_status s (by decide)).trans hbusy
    have htarget : (writeTarget s.cfg 0x004).isNone = false := rfl
    refine (step_write_of_refused hin hr (.inr hx)).trans ?_
    simp [hx, htarget, cmdAddr]

/-- A turn of the engine runs the decoded command (R79, R101). -/
theorem engineTurn_of_decode_ok {s : State} {w : Word} {i : Instr} (hr : s.inReset = false)
    (hw : s.running = some w) (hi : decode w = .ok i) : engineTurn s = exec i s := by
  simp [engineTurn, hr, hw, hi]

/-- A turn of an idle engine does nothing (R337). -/
theorem engineTurn_of_idle {s : State} (hw : s.running = none) : engineTurn s = .next s := by
  simp [engineTurn, hw]

theorem step_engine {s : State} {rest : List Event} (h : s.inputs = .engine :: rest) :
    step s = engineTurn { s with inputs := rest } := by
  simp [step, nextEvent, h]

/-- With nothing waiting it is the engine's turn (R79). -/
theorem step_of_no_inputs {s : State} (h : s.inputs = []) : step s = engineTurn s := by
  simp [step, nextEvent, h]

/-- Settles O5: both steps are a turn of the engine. -/
theorem stepAtTheEnginesTurnRunsTheDecodedCommand :
    Obligations.StepAtTheEnginesTurnRunsTheDecodedCommand := by
  refine ⟨fun s w i hr hw hi => ⟨fun rest hin => ?_, fun hin => ?_⟩, fun s hw => ⟨fun rest hin => ?_,
    fun hin => ?_⟩⟩
  · exact (step_engine hin).trans (engineTurn_of_decode_ok hr hw hi)
  · exact (step_of_no_inputs hin).trans (engineTurn_of_decode_ok hr hw hi)
  · exact (step_engine hin).trans (engineTurn_of_idle hw)
  · exact (step_of_no_inputs hin).trans (engineTurn_of_idle hw)

end Sys2Proof.Machine
end

section
/-! Noninterference of the host with a running command (R78, R366): what the host accesses change while
the engine is busy, a command neither reads nor, but for `DONE`, writes. -/

namespace Sys2Proof.Machine

open Sys2Proof

/-- The state that host accesses may change while a command runs (R78): the sticky flags of `STATUS`,
`DONE` among them (R40), the last word read, and the waiting events. -/
structure HostTrace where
  cmdDropped : Bool
  busyAcc : Bool
  badAcc : Bool
  done : Bool
  readData : Word
  inputs : List Event

/-- A state in which the host has left the trace `h`. -/
def State.withTrace (h : HostTrace) (s : State) : State :=
  { s with
    cmdDropped := h.cmdDropped
    busyAcc := h.busyAcc
    badAcc := h.badAcc
    done := h.done
    readData := h.readData
    inputs := h.inputs }

/-- The same end of a body, in a state with the host's trace. -/
def BodyResult.withTrace (h : HostTrace) : BodyResult → BodyResult
  | .done s => .done (s.withTrace h)
  | .raised e s => .raised e (s.withTrace h)

/-- A body that neither reads nor writes what the host changes. -/
def IgnoresHost (body : State → BodyResult) : Prop :=
  ∀ (h : HostTrace) (s : State), body (s.withTrace h) = (body s).withTrace h

@[simp] theorem BodyResult.withTrace_out (h : HostTrace) (r : BodyResult) :
    (r.withTrace h).out = r.out.withTrace h := by
  cases r <;> rfl

@[simp] theorem BodyResult.withTrace_code (h : HostTrace) (r : BodyResult) :
    (r.withTrace h).code = r.code := by
  cases r <;> rfl

/-! ### Chaining -/

theorem BodyResult.withTrace_andThen (h : HostTrace) (r : BodyResult) {k : State → BodyResult}
    (hk : IgnoresHost k) : (r.withTrace h).andThen k = (r.andThen k).withTrace h := by
  cases r with
  | done s => exact hk h s
  | raised e s => rfl

theorem IgnoresHost.andThen {f k : State → BodyResult} (hf : IgnoresHost f) (hk : IgnoresHost k) :
    IgnoresHost fun s => (f s).andThen k := by
  intro h s
  dsimp only
  rw [hf h s, BodyResult.withTrace_andThen h _ hk]

/-- A choice on what the host does not change. -/
theorem IgnoresHost.ite {c : State → Prop} [DecidablePred c] {f k : State → BodyResult}
    (hc : ∀ h s, c (State.withTrace h s) ↔ c s) (hf : IgnoresHost f) (hk : IgnoresHost k) :
    IgnoresHost fun s => if c s then f s else k s := by
  intro h s
  by_cases hs : c s
  · simp [hs, hc, hf h s]
  · simp [hs, hc, hk h s]

/-! ### The bodies of the commands -/

theorem IgnoresHost.enter {body : State → BodyResult} (hbody : IgnoresHost body) (ph : Phase) :
    IgnoresHost fun s => body (s.enter ph) :=
  fun h s => hbody h (s.enter ph)

theorem IgnoresHost.enterAt {body : State → BodyResult} (hbody : IgnoresHost body) (ph : Phase) (k : Nat) :
    IgnoresHost fun s => body (s.enterAt ph k) :=
  fun h s => hbody h (s.enterAt ph k)

theorem ignoresHost_done : IgnoresHost .done := fun _ _ => rfl

theorem ignoresHost_raised (e : ErrCode) : IgnoresHost (.raised e) := fun _ _ => rfl

theorem ignoresHost_clrresBody : IgnoresHost clrresBody := fun _ _ => rfl

theorem ignoresHost_syncBody : IgnoresHost syncBody := fun _ _ => rfl

theorem ignoresHost_extractBody (idx : Nat) : IgnoresHost (extractBody idx) :=
  .ite (fun _ _ => .rfl) (ignoresHost_raised _)
    (.ite (fun _ _ => .rfl) (ignoresHost_raised _) fun _ _ => rfl)

theorem ignoresHost_ldpcBody : IgnoresHost ldpcBody :=
  .ite (fun _ _ => .rfl) (ignoresHost_raised _) fun _ _ => rfl

theorem ignoresHost_checkBody : IgnoresHost checkBody :=
  .ite (fun _ _ => .rfl) (ignoresHost_raised _) fun _ _ => rfl

theorem ignoresHost_unpackBody : IgnoresHost unpackBody := by
  refine .ite (fun _ _ => .rfl) (ignoresHost_raised _) fun h s => ?_
  have hu : unpackMessage (s.withTrace h).ht (message77 (s.withTrace h).a91) =
      unpackMessage s.ht (message77 s.a91) := rfl
  dsimp only
  rw [hu]
  cases unpackMessage s.ht (message77 s.a91) <;> rfl

theorem ignoresHost_storeBody : IgnoresHost storeBody :=
  .ite (fun _ _ => .rfl) (ignoresHost_raised _) (.ite (fun _ _ => .rfl) (fun _ _ => rfl)
    (.ite (fun _ _ => .rfl) (fun _ _ => rfl) fun _ _ => rfl))

theorem ignoresHost_htaddBody : IgnoresHost htaddBody :=
  .ite (fun _ _ => .rfl) (fun _ _ => rfl) (.ite (fun _ _ => .rfl) (fun _ _ => rfl)
    (.ite (fun _ _ => .rfl) (fun _ _ => rfl) fun _ _ => rfl))

theorem ignoresHost_lookupResult (found : State → Option Slot)
    (hfound : ∀ h s, found (State.withTrace h s) = found s) :
    IgnoresHost fun s => .done (lookupResult (found s) s) := by
  intro h s
  dsimp only
  rw [hfound]
  cases found s <;> rfl

/-! ### DECODE -/

theorem ignoresHost_dropCandidate (reason : Disposition) : IgnoresHost (dropCandidate reason) :=
  fun _ _ => rfl

theorem ignoresHost_decodeStore (idx : Nat) : IgnoresHost (decodeStore idx) :=
  .ite (fun _ _ => .rfl) (ignoresHost_dropCandidate _) (ignoresHost_storeBody.enterAt _ _)

theorem ignoresHost_decodeUnpack (idx : Nat) : IgnoresHost (decodeUnpack idx) :=
  .ite (fun _ _ => .rfl) (ignoresHost_dropCandidate _)
    ((ignoresHost_unpackBody.enterAt _ _).andThen (ignoresHost_decodeStore idx))

theorem ignoresHost_decodeCheck (idx : Nat) : IgnoresHost (decodeCheck idx) :=
  .ite (fun _ _ => .rfl) (ignoresHost_dropCandidate _)
    ((ignoresHost_checkBody.enterAt _ _).andThen (ignoresHost_decodeUnpack idx))

theorem ignoresHost_decodeCandidate (idx : Nat) : IgnoresHost (decodeCandidate idx) :=
  (((ignoresHost_extractBody idx).enterAt _ _).andThen (ignoresHost_ldpcBody.enterAt _ _)).andThen
    (ignoresHost_decodeCheck idx)

theorem ignoresHost_decodeLoop (idxs : List Nat) : IgnoresHost (decodeLoop idxs) := by
  induction idxs with
  | nil => exact ignoresHost_done
  | cons idx idxs ih =>
    intro h s
    rw [decodeLoop_cons, decodeLoop_cons]
    exact (ignoresHost_decodeCandidate idx).andThen ih h s

theorem ignoresHost_decodeBody : IgnoresHost decodeBody :=
  (((ignoresHost_clrresBody.enterAt _ _).andThen (ignoresHost_syncBody.enterAt _ _)).andThen
    fun h s => ignoresHost_decodeLoop (List.range s.candCount.toNat) h s).andThen fun _ _ => rfl

/-! ### Every command -/

theorem ignoresHost_commandBody (i : Instr) : IgnoresHost (commandBody i) := by
  cases i with
  | nop => exact ignoresHost_done
  | sync => exact ignoresHost_syncBody.enterAt _ _
  | extract idx => exact (ignoresHost_extractBody idx).enter _
  | ldpc => exact ignoresHost_ldpcBody.enter _
  | check => exact ignoresHost_checkBody.enter _
  | unpack => exact ignoresHost_unpackBody.enter _
  | store => exact ignoresHost_storeBody.enter _
  | decode => exact ignoresHost_decodeBody
  | clrres => exact ignoresHost_clrresBody.enter _
  | htadd => exact ignoresHost_htaddBody.enter _
  | htlook =>
    exact (ignoresHost_lookupResult (fun s => htFind22 s.ht s.htKeyIn) fun _ _ => rfl).enter _
  | htlook12 =>
    exact (ignoresHost_lookupResult (fun s => htFind12 s.ht (s.htKeyIn.extractLsb' 0 12))
      fun _ _ => rfl).enter _

/-- Completion sets `DONE` whatever it was and leaves the rest of the host's trace (R102). -/
theorem completeWith_withTrace (e : ErrCode) (h : HostTrace) (s : State) :
    (s.withTrace h).completeWith e = (s.completeWith e).withTrace { h with done := true } := rfl

/-- A command in a state with the host's trace leaves that trace but for `DONE`, and else what it leaves
without (R78, R366). -/
theorem exec_withTrace (h : HostTrace) {i : Instr} {s t : State} (hexec : exec i s = .next t) :
    exec i (s.withTrace h) = .next (t.withTrace { h with done := t.done }) := by
  rw [exec_eq, Host.Outcome.next.injEq] at hexec
  rw [exec_eq, ignoresHost_commandBody i h s, BodyResult.withTrace_out, BodyResult.withTrace_code,
    completeWith_withTrace, ← hexec]
  rfl

/-- Settles O9, the changed state being one with the host's trace. -/
theorem commandsIgnoreWhatHostAccessesWhileBusyChange :
    Obligations.CommandsIgnoreWhatHostAccessesWhileBusyChange := by
  intro i s t dropped busyAcc badAcc done r es hexec
  exact exec_withTrace ⟨dropped, busyAcc, badAcc, done, r, es⟩ hexec

end Sys2Proof.Machine
end

section
/-! The read-only buffers on the host port, and the power matrix: how each reads, and what a write of a
matrix word stores. -/

namespace Sys2Proof.Machine

open Sys2Proof

/-! ### Messages and records -/

/-- The header of a message whose texts fit their registers (R27). -/
theorem toNat_msgHeader {m : Msg} (h : m.Bounded) : (msgHeader m).toNat = headerValue m := by
  have hf1 := toNat_ofNat_of_lt (n := 5) (h.f1.trans_lt (by decide))
  have hf2 := toNat_ofNat_of_lt (n := 4) (h.f2.trans_lt (by decide))
  have hf3 := toNat_ofNat_of_lt (n := 3) (h.f3.trans_lt (by decide))
  simp only [msgHeader, headerValue, toNat_append_eq, toNat_flagBit, BitVec.ofNat_eq_ofNat,
    BitVec.toNat_zero, hf1, hf2, hf3]
  ring

/-- The words of a message are laid out as R27 and R44 say. -/
theorem laidOut_msgWord {m : Msg} (h : m.Bounded) : m.LaidOut (msgWord m) where
  header := toNat_msgHeader h
  f1 b hb := by
    have hword : msgWord m (1 + b / 4) = cellsWord m.f1 (b / 4) := by
      simp (disch := omega) only [msgWord, if_pos, if_neg, Nat.add_sub_cancel_left]
    rw [hword, byteLane_cellsWord]
  f2 b hb := by
    have hword : msgWord m (6 + b / 4) = cellsWord m.f2 (b / 4) := by
      simp (disch := omega) only [msgWord, if_pos, if_neg, Nat.add_sub_cancel_left]
    rw [hword, byteLane_cellsWord]
  f3 b hb := by
    have hword : msgWord m (10 + b / 4) = cellsWord m.f3 (b / 4) := by
      simp (disch := omega) only [msgWord, if_pos, if_neg, Nat.add_sub_cancel_left]
    rw [hword, byteLane_cellsWord]
  loc := rfl

/-- A layout says nothing of words beyond the 13 of a message (R27). -/
theorem Msg.LaidOut.congr {m : Msg} {word word' : Nat → Word} (h : m.LaidOut word)
    (heq : ∀ w < 13, word' w = word w) : m.LaidOut word' where
  header := by rw [heq _ (by decide), h.header]
  f1 b hb := by rw [heq _ (by omega), h.f1 b hb]
  f2 b hb := by rw [heq _ (by omega), h.f2 b hb]
  f3 b hb := by rw [heq _ (by omega), h.f3 b hb]
  loc := by rw [heq _ (by decide), h.loc]

theorem recordWord_of_lt (e : Record) {w : Nat} (hw : w < 13) : recordWord e w = msgWord e.msg w :=
  if_pos hw

theorem recordWord_a91 (e : Record) {w : Nat} (hw : w < 3) :
    recordWord e (18 + w) = bitsWord e.a91 w := by
  simp (disch := omega) only [recordWord, if_pos, if_neg, Nat.add_sub_cancel_left]

/-- The words 22 to 31 of a record are zero (R44). -/
theorem recordWord_of_ge (e : Record) {w : Nat} (hw : 22 ≤ w) : recordWord e w = 0 := by
  simp (disch := omega) only [recordWord, if_neg]

theorem toNat_recordWord_freq (e : Record) :
    (recordWord e 15).toNat = e.freqSub.toNat * 2 ^ 16 + e.freqOffset.toNat :=
  toNat_candidateWord_one ⟨0, 0, e.freqOffset, e.freqSub⟩

theorem toNat_recordWord_cand (e : Record) : (recordWord e 21).toNat = e.cand.toNat :=
  BitVec.toNat_setWidth_of_le (show 7 ≤ 32 by decide)

/-! ### Byte cells -/

/-- Byte `j` of four packed bytes, as a number (R77). -/
theorem byteLane_packWord (f : Nat → Byte) {j : Nat} (hj : j < 4) :
    byteLane (packWord (f 0) (f 1) (f 2) (f 3)) j = (f j).toNat := by
  rw [byteLane_eq, wordByte_packWord f hj]

/-- A cell of `DISP` in its word (R45). -/
theorem byteLane_dispWord (s : State) (i : Nat) :
    byteLane (readLocation s (.disp (i / 4))) (i % 4) = (s.disp.getD i .none).code.toNat := by
  have hcell : byteLane (readLocation s (.disp (i / 4))) (i % 4) =
      (dispByte s (4 * (i / 4) + i % 4)).toNat :=
    byteLane_packWord (fun j => dispByte s (4 * (i / 4) + j)) (Nat.mod_lt _ (by decide))
  rw [hcell, Nat.div_add_mod, dispByte, BitVec.toNat_setWidth_of_le (by decide)]

/-- A cell of `PM` in its word (R75). -/
theorem byteLane_pmWord (s : State) (c : Nat) :
    byteLane (readLocation s (.pm (c / 4))) (c % 4) =
      if c < s.cfg.pmBytes then (s.pmCell c).toNat else 0 := by
  have hcell : byteLane (readLocation s (.pm (c / 4))) (c % 4) =
      (pmByte s (4 * (c / 4) + c % 4)).toNat :=
    byteLane_packWord (fun j => pmByte s (4 * (c / 4) + j)) (Nat.mod_lt _ (by decide))
  rw [hcell, Nat.div_add_mod, pmByte, apply_ite BitVec.toNat]
  rfl

/-! ### The reads of an idle block -/

section
variable {s : State} (hb : s.busy = false) (hr : s.inReset = false)
include hb hr

theorem hostRead_msg {w : Nat} (hw : w < 13) : (hostRead (0x0C0 + 4 * w) s).readData = msgWord s.msg w :=
  congrArg State.readData (hostRead_addr (l := .msg w) hb hr hw)

theorem hostRead_disp {w : Nat} (hw : w < 16) :
    (hostRead (0x300 + 4 * w) s).readData = readLocation s (.disp w) :=
  congrArg State.readData (hostRead_addr (l := .disp w) hb hr hw)

theorem hostRead_pm {w : Nat} (hw : w < s.cfg.pmWords) :
    (hostRead (0x1000000 + 4 * w) s).readData = readLocation s (.pm w) :=
  congrArg State.readData (hostRead_addr (l := .pm w) hb hr hw)

theorem hostRead_res {r w : Nat} (hr6 : r < 6) (hw : w < 32) :
    (hostRead (0x800 + 128 * r + 4 * w) s).readData = readLocation s (.res r w) :=
  congrArg State.readData (hostRead_addr (l := .res r w) hb hr ⟨hr6, hw⟩)

/-- An unused record reads zero (R44). -/
theorem hostRead_res_unused {r w : Nat} (hr6 : r < 6) (hw : w < 32) (hunused : s.res.length ≤ r) :
    (hostRead (0x800 + 128 * r + 4 * w) s).readData = 0 := by
  rw [hostRead_res hb hr hr6 hw, readLocation, List.getElem?_eq_none hunused]

theorem hostRead_res_used {r w : Nat} {e : Record} (hr6 : r < 6) (hw : w < 32) (he : s.res[r]? = some e) :
    (hostRead (0x800 + 128 * r + 4 * w) s).readData = recordWord e w := by
  rw [hostRead_res hb hr hr6 hw, readLocation, he]

end

/-- Settles O52: an access the engine does not exclude returns the word of its location, and the words of
each read-only buffer are laid out. -/
theorem normalReadReturnsTheWordAndChangesNothing :
    Obligations.NormalReadReturnsTheWordAndChangesNothing := by
  refine ⟨fun s a rest => step_read, fun s a l rest hr hin halign hl hfree => ?word,
    fun s hinv hb hr => ⟨?msg, fun r hr6 w hw hunused => hostRead_res_unused hb hr hr6 hw hunused,
      fun r e he => ?record, fun i hi => ?disp, fun c hc => ?pm⟩⟩
  case word =>
    have htarget : target s.cfg a.toNat = some l := by rw [target, if_pos halign, hl]
    have hx : s.excludes a.toNat = false := excludes_eq_false_iff.2 (hfree.imp_right (by rintro rfl; rfl))
    exact (step_read hin).trans
      (congrArg _ (hostRead_of_target (s := { s with inputs := rest }) hr htarget hx))
  case msg => exact (laidOut_msgWord hinv.msg).congr fun w hw => hostRead_msg hb hr hw
  case record =>
    have hr6 : r < 6 := (List.getElem?_eq_some_iff.1 he).1.trans_le hinv.resCount
    have hword : ∀ w < 32, (hostRead (0x800 + 128 * r + 4 * w) s).readData = recordWord e w :=
      fun w hw => hostRead_res_used hb hr hr6 hw he
    obtain ⟨hmsg, -⟩ := hinv.res e (List.mem_of_getElem? he)
    refine ⟨(laidOut_msgWord hmsg).congr fun w hw => ?_, ?_, ?_, ?_, ?_, ?_, ?_, ?_, fun w hge hlt => ?_⟩
    · exact (hword w (by omega)).trans (recordWord_of_lt e hw)
    · exact (congrArg BitVec.toNat (hword 13 (by decide))).trans (toNat_append_eq e.score e.freqHz)
    · exact (congrArg BitVec.toNat (hword 14 (by decide))).trans (toNat_append_eq e.timeOffset e.level)
    · exact (congrArg BitVec.toNat (hword 15 (by decide))).trans (toNat_recordWord_freq e)
    · exact hword 16 (by decide)
    · exact hword 17 (by decide)
    · exact bitsLaidOut_of_bitsWord (fun _ => rfl) (by decide) fun w hw =>
        (hword (18 + w) (by omega)).trans (recordWord_a91 e hw)
    · exact (congrArg BitVec.toNat (hword 21 (by decide))).trans (toNat_recordWord_cand e)
    · exact (hword w hlt).trans (recordWord_of_ge e hge)
  case disp =>
    dsimp only
    rw [hostRead_disp hb hr (by omega), byteLane_dispWord]
  case pm =>
    dsimp only
    rw [hostRead_pm hb hr (by omega), byteLane_pmWord]

/-! ### A write of a matrix word -/

/-- A cell of the matrix after a host write of word `w`: byte `c % 4` of the word if the cell is in it
and below `PM_BYTES` (R75, R77). -/
theorem lookup_writePmWord (p : Config.Params) (m : Memory) (w : Nat) (v : Word) (c : Nat) :
    (writePmWord p m w v).lookup c =
      if c / 4 = w ∧ c < p.pmBytes then some (wordByte v (c % 4)) else m.lookup c := by
  simp only [writePmWord, lookup_writePmByte]
  by_cases hword : c / 4 = w
  · have hlane : c = 4 * w ∨ c = 4 * w + 1 ∨ c = 4 * w + 2 ∨ c = 4 * w + 3 := by omega
    rcases hlane with rfl | rfl | rfl | rfl <;> simp [hword, Nat.add_mod]
  · simp (disch := omega) only [if_neg]

/-- A cell as read after a host write of its word (R75). -/
theorem pmCell_writePmWord (s : State) (w : Nat) (v : Word) (c : Nat) :
    ({ s with pm := writePmWord s.cfg s.pm w v } : State).pmCell c =
      if c / 4 = w ∧ c < s.cfg.pmBytes then wordByte v (c % 4) else s.pmCell c := by
  simp only [State.pmCell, lookup_writePmWord]
  split <;> rfl

theorem hostWrite_pm {s : State} (hb : s.busy = false) (hr : s.inReset = false) {w : Nat}
    (hw : w < s.cfg.pmWords) (v : Word) :
    hostWrite (0x1000000 + 4 * w) v s = { s with pm := writePmWord s.cfg s.pm w v } :=
  hostWrite_addr (l := .pm w) hb hr hw rfl v

/-- Settles O59, cell by cell. -/
theorem powerMatrixWriteStoresFourCells : Obligations.PowerMatrixWriteStoresFourCells := by
  intro s w v hw hb hr
  dsimp only
  rw [hostWrite_pm hb hr hw]
  refine ⟨rfl, fun j hj hcell => ?stored, fun c hc => ?other, fun hwf => wf_writePmWord s.cfg hwf w v⟩
  case stored =>
    rw [pmCell_writePmWord, if_pos ⟨by omega, hcell⟩, ← byteLane_eq, byteLane,
      show (4 * w + j) % 4 = j by omega]
  case other => rw [pmCell_writePmWord, if_neg (by omega)]

end Sys2Proof.Machine
end

section
/-! Command words: the three fields of a word (R100), what the opcode map names (R103), and which words
the decoder takes and which it refuses (R104, R105). -/

namespace Sys2Proof.Machine

open Sys2Proof

/-! ### The fields of a word -/

theorem toNat_opField (w : Word) : (opField w).toNat = w.toNat % 256 := by
  rw [opField, BitVec.extractLsb'_toNat, Nat.shiftRight_zero]

theorem toNat_argField (w : Word) : (argField w).toNat = w.toNat / 256 % 256 := by
  rw [argField, BitVec.extractLsb'_toNat, Nat.shiftRight_eq_div_pow]

/-- `RSV` reaches up to the top bit, so nothing is cut off above it (R100). -/
theorem toNat_rsvField (w : Word) : (rsvField w).toNat = w.toNat / 2 ^ 16 := by
  rw [rsvField, BitVec.extractLsb'_toNat, Nat.shiftRight_eq_div_pow]
  exact Nat.mod_eq_of_lt (Nat.div_lt_of_lt_mul w.isLt)

/-- The three fields are all of a word (R100). -/
theorem eq_of_fields_eq {x y : Word} (hop : opField x = opField y) (harg : argField x = argField y)
    (hrsv : rsvField x = rsvField y) : x = y := by
  have hlow := congrArg BitVec.toNat hop
  have hmid := congrArg BitVec.toNat harg
  have hhigh := congrArg BitVec.toNat hrsv
  rw [toNat_opField, toNat_opField] at hlow
  rw [toNat_argField, toNat_argField] at hmid
  rw [toNat_rsvField, toNat_rsvField] at hhigh
  exact BitVec.eq_of_toNat_eq (by omega)

/-- `OP` names EXTRACT exactly when its number is 2 (R103). -/
theorem opField_eq_two_iff (w : Word) : opField w = 0x02 ↔ (opField w).toNat = 2 :=
  BitVec.toNat_inj.symm

theorem argField_eq_zero_iff (w : Word) : argField w = 0 ↔ (argField w).toNat = 0 :=
  BitVec.toNat_inj.symm

/-! ### The opcode map -/

/-- The opcode map names a command by its own row (R103). -/
theorem opcodeMap_opcode (i : Instr) : opcodeMap i.opcode i.arg = some i := by
  cases i <;> rfl

/-- The operand of every command but EXTRACT is 0 (R100). -/
theorem arg_eq_zero {i : Instr} (h : i.opcode ≠ 2) : i.arg = 0 := by
  cases i with
  | extract idx => exact absurd rfl h
  | _ => rfl

/-- A command is well formed exactly when its operand fits `ARG` (R100). -/
theorem wellFormed_iff (i : Instr) : i.wellFormed = true ↔ i.arg < 256 := by
  cases i with
  | extract idx => simp [Instr.wellFormed, Instr.arg, Nat.lt_succ_iff]
  | _ => simp [Instr.wellFormed, Instr.arg]

/-- The `OP` values of the opcode map (R103). -/
def opcodes : List Nat :=
  [0x00, 0x01, 0x02, 0x03, 0x04, 0x05, 0x06, 0x07, 0x08, 0x10, 0x11, 0x12]

/-- A number is in the opcode map or names nothing there (R103). -/
theorem opcodeMap_cases (op arg : Nat) :
    (op ∈ opcodes ∧ ∃ i, opcodeMap op arg = some i ∧ i.opcode = op ∧ (op = 2 → i.arg = arg)) ∨
    (op ∉ opcodes ∧ opcodeMap op arg = none) := by
  unfold opcodeMap
  split
  case h_13 =>
    refine .inr ⟨?_, rfl⟩
    simp only [opcodes, List.mem_cons, List.not_mem_nil]
    tauto
  all_goals exact .inl ⟨by simp [opcodes], _, rfl, rfl, by simp [Instr.arg]⟩

/-- What a number names in the opcode map has that opcode, and EXTRACT the given operand (R103). -/
theorem opcodeMap_eq_some {op arg : Nat} {i : Instr} (h : opcodeMap op arg = some i) :
    i.opcode = op ∧ (op = 2 → i.arg = arg) := by
  rcases opcodeMap_cases op arg with ⟨-, j, hj, hop, harg⟩ | ⟨-, hnone⟩
  · rw [Option.some.inj (h.symm.trans hj)]
    exact ⟨hop, harg⟩
  · rw [hnone] at h
    cases h

theorem opcodeMap_eq_none_iff (op arg : Nat) : opcodeMap op arg = none ↔ op ∉ opcodes := by
  rcases opcodeMap_cases op arg with ⟨hmem, i, hi, -⟩ | ⟨hmem, hnone⟩
  · simp [hmem, hi]
  · simp [hmem, hnone]

/-! ### The decoder -/

/-- The three checks of the decoder in their order (R104, R105). -/
theorem decode_cases (w : Word) :
    (rsvField w ≠ 0 ∧ decode w = .error .reservedBits) ∨
    (rsvField w = 0 ∧ opcodeMap (opField w).toNat (argField w).toNat = none ∧
      decode w = .error .unknownOpcode) ∨
    ∃ i, rsvField w = 0 ∧ opcodeMap (opField w).toNat (argField w).toNat = some i ∧
      ((opField w ≠ 0x02 ∧ argField w ≠ 0 ∧ decode w = .error .operandNotZero) ∨
        ((opField w = 0x02 ∨ argField w = 0) ∧ decode w = .ok i)) := by
  unfold decode
  by_cases hrsv : rsvField w = 0
  · rw [if_neg (not_not_intro hrsv)]
    cases opcodeMap (opField w).toNat (argField w).toNat with
    | none => exact .inr (.inl ⟨hrsv, rfl, rfl⟩)
    | some i =>
      by_cases hbad : opField w ≠ 0x02 ∧ argField w ≠ 0
      · exact .inr (.inr ⟨i, hrsv, rfl, .inl ⟨hbad.1, hbad.2, if_pos hbad⟩⟩)
      · exact .inr (.inr ⟨i, hrsv, rfl, .inr ⟨by tauto, if_neg hbad⟩⟩)
  · exact .inl ⟨hrsv, if_pos hrsv⟩

/-- The legal words (R105). -/
theorem decode_eq_ok_iff {w : Word} {i : Instr} :
    decode w = .ok i ↔ rsvField w = 0 ∧
      opcodeMap (opField w).toNat (argField w).toNat = some i ∧
      (opField w = 0x02 ∨ argField w = 0) := by
  rcases decode_cases w with ⟨hrsv, hd⟩ | ⟨-, hmap, hd⟩ | ⟨j, hrsv, hmap, ⟨hop, harg, hd⟩ | ⟨harg, hd⟩⟩
  · simp only [hd, hrsv, reduceCtorEq, false_and]
  · simp only [hd, hmap, reduceCtorEq, false_and, and_false]
  · simp only [hd, hop, harg, reduceCtorEq, or_self, and_false]
  · simp only [hd, hrsv, hmap, harg, Except.ok.injEq, Option.some.injEq, true_and, and_true]

/-- The illegal words, for one of the three reasons of R104. -/
theorem decode_eq_error_iff (w : Word) :
    (∃ e, decode w = .error e) ↔ rsvField w ≠ 0 ∨
      opcodeMap (opField w).toNat (argField w).toNat = none ∨
      (opField w ≠ 0x02 ∧ argField w ≠ 0) := by
  rcases decode_cases w with ⟨hrsv, hd⟩ | ⟨-, hmap, hd⟩ | ⟨j, hrsv, hmap, ⟨hop, harg, hd⟩ | ⟨harg, hd⟩⟩
  · exact iff_of_true ⟨_, hd⟩ (.inl hrsv)
  · exact iff_of_true ⟨_, hd⟩ (.inr (.inl hmap))
  · exact iff_of_true ⟨_, hd⟩ (.inr (.inr ⟨hop, harg⟩))
  · refine iff_of_false (by simp [hd]) ?_
    rintro (h | h | ⟨hop, hne⟩)
    · exact h hrsv
    · simp [hmap] at h
    · exact harg.elim hop hne

/-! ### Round trips -/

/-- The encoding table of R100 and R103, for every command. -/
theorem encodeFields (i : Instr) : Laws.EncodeFields.Statement i := by
  cases i with
  | nop => exact Laws.EncodeFields.nop
  | sync => exact Laws.EncodeFields.sync
  | extract idx => exact Laws.EncodeFields.extract idx
  | ldpc => exact Laws.EncodeFields.ldpc
  | check => exact Laws.EncodeFields.check
  | unpack => exact Laws.EncodeFields.unpack
  | store => exact Laws.EncodeFields.store
  | decode => exact Laws.EncodeFields.decode
  | clrres => exact Laws.EncodeFields.clrres
  | htadd => exact Laws.EncodeFields.htadd
  | htlook => exact Laws.EncodeFields.htlook
  | htlook12 => exact Laws.EncodeFields.htlook12

/-- Settles O1: the fields of the word are the command's row of the opcode map. -/
theorem decodeOfEncodeGivesTheCommand : Obligations.DecodeOfEncodeGivesTheCommand := by
  intro i hwf
  obtain ⟨hop, harg, hrsv⟩ := encodeFields i hwf
  refine decode_eq_ok_iff.2 ⟨hrsv, ?_, ?_⟩
  · rw [hop, harg, opcodeMap_opcode]
  · rw [opField_eq_two_iff, argField_eq_zero_iff, hop, harg]
    exact (eq_or_ne i.opcode 2).imp_right arg_eq_zero

/-- The fields of a legal word are those of the command it decodes to (R100, R105). -/
theorem fields_of_decode_ok {w : Word} {i : Instr} (h : decode w = .ok i) :
    (opField w).toNat = i.opcode ∧ (argField w).toNat = i.arg ∧ rsvField w = 0 := by
  obtain ⟨hrsv, hmap, hlegal⟩ := decode_eq_ok_iff.1 h
  obtain ⟨hop, harg⟩ := opcodeMap_eq_some hmap
  refine ⟨hop.symm, ?_, hrsv⟩
  by_cases htwo : (opField w).toNat = 2
  · exact (harg htwo).symm
  · rw [arg_eq_zero (hop.trans_ne htwo), ← argField_eq_zero_iff]
    exact hlegal.resolve_left fun h2 => htwo ((opField_eq_two_iff w).1 h2)

/-- Settles O2: a legal word and the word of its command have the same three fields. -/
theorem legalWordIsTheWordOfItsCommand : Obligations.LegalWordIsTheWordOfItsCommand := by
  intro w i h
  obtain ⟨hop, harg, hrsv⟩ := fields_of_decode_ok h
  have hwf : i.wellFormed = true := (wellFormed_iff i).2 (harg ▸ (argField w).isLt)
  obtain ⟨hop', harg', hrsv'⟩ := encodeFields i hwf
  exact ⟨hwf, eq_of_fields_eq (BitVec.eq_of_toNat_eq (hop'.trans hop.symm))
    (BitVec.eq_of_toNat_eq (harg'.trans harg.symm)) (hrsv'.trans hrsv.symm)⟩

/-- Settles O4: the legal words are those of their commands, the illegal ones are evaluated. -/
theorem wordsFromTheOpcodeMapDecode : Obligations.WordsFromTheOpcodeMapDecode := by
  have hok : ∀ i : Instr, i.wellFormed = true → decode (encode i) = .ok i :=
    decodeOfEncodeGivesTheCommand
  exact ⟨hok .nop rfl, hok .sync rfl, hok (.extract 3) rfl, hok (.extract 255) rfl, hok .unpack rfl,
    hok .decode rfl, hok .htadd rfl, hok .htlook12 rfl, rfl, rfl, rfl, rfl⟩

end Sys2Proof.Machine
end

section
/-! Every accepted command completes: a legal one after its body, an illegal one with `E_ILLEGAL`
(R102, R104, R320). -/

namespace Sys2Proof.Machine

open Sys2Proof

/-! ### Illegal words -/

/-- A turn of the engine completes an illegal word with `E_ILLEGAL` and does nothing else (R104). -/
theorem engineTurn_of_decode_error {s : State} {w : Word} {e : DecodeError} (hr : s.inReset = false)
    (hw : s.running = some w) (he : decode w = .error e) :
    engineTurn s = .next (s.completeWith .illegal) := by
  simp [engineTurn, hr, hw, he]

/-- The words of R104, by their number. -/
theorem illegal_iff_toNat (w : Word) : (∃ e, decode w = .error e) ↔
    w.toNat / 2 ^ 16 ≠ 0 ∨ w.toNat % 256 ∉ opcodes ∨
      (w.toNat % 256 ≠ 0x02 ∧ w.toNat / 256 % 256 ≠ 0) := by
  rw [decode_eq_error_iff, opcodeMap_eq_none_iff, ne_eq (opField w), ne_eq (argField w),
    opField_eq_two_iff, argField_eq_zero_iff, toNat_opField, toNat_argField, ← toNat_rsvField]
  exact or_congr_left (not_congr BitVec.toNat_inj.symm)

/-- Settles O3: acceptance leaves `SEQ`, and completion finds an idle block's `PHASE` at 0 already. -/
theorem illegalWordsRaiseIllegalAndChangeOnlyStatus :
    Obligations.IllegalWordsRaiseIllegalAndChangeOnlyStatus := by
  refine ⟨illegal_iff_toNat, fun s w e rest hinv hidle hr he hin => ?_⟩
  have hrunning : s.running = none := by simpa [State.busy] using hidle
  have hphase : s.phase = .idle := hinv.phase hidle
  have haccept : step s = .next { s with
      running := some w, done := false, err := .ok, lastOp := opField w, inputs := .engine :: rest } :=
    (step_write hin).trans (congrArg _ ((hostWrite_cmd (s := { s with inputs := .engine :: rest })
      hr hidle w).trans (accept_of_decode_error he _)))
  refine ⟨_, _, haccept, (step_engine rfl).trans (engineTurn_of_decode_error hr rfl he), rfl, ?_⟩
  simp only [State.completeWith, ← hrunning, ← hphase]
  rfl

/-! ### Completion -/

/-- A turn of the engine with an accepted command completes it, and writes only what the engine writes
(R102, R104). -/
theorem engineTurn_completes {s : State} {w : Word} (hr : s.inReset = false)
    (hw : s.running = some w) :
    ∃ (u : State) (e : ErrCode), engineTurn s = .next (u.completeWith e) ∧ EngineFrame s u := by
  cases hd : decode w with
  | ok i =>
    exact ⟨_, _, (engineTurn_of_decode_ok hr hw hd).trans (exec_eq i s), .commandBody i s⟩
  | error e => exact ⟨s, .illegal, engineTurn_of_decode_error hr hw hd, .refl s⟩

/-- No turn of the engine stops (R102, R337, R350). -/
theorem engineTurn_next (s : State) : ∃ t, engineTurn s = .next t := by
  cases hr : s.inReset
  · cases hw : s.running with
    | none => exact ⟨s, engineTurn_of_idle hw⟩
    | some w =>
      obtain ⟨u, e, h, -⟩ := engineTurn_completes hr hw
      exact ⟨_, h⟩
  · exact ⟨s, by simp [engineTurn, hr]⟩

/-- No step stops (R320, R329). -/
theorem step_next (s : State) : ∃ t, step s = .next t := by
  cases hin : s.inputs with
  | nil => rw [step_of_no_inputs hin]; exact engineTurn_next s
  | cons event rest =>
    cases event with
    | read a => exact ⟨_, step_read hin⟩
    | write a v => exact ⟨_, step_write hin⟩
    | engine => rw [step_engine hin]; exact engineTurn_next _
    | assertReset | releaseReset => exact ⟨_, by simp [step, nextEvent, hin]; rfl⟩

/-- Settles O7: the engine's turn is a completion after an engine frame. -/
theorem everyAcceptedCommandCompletes : Obligations.EveryAcceptedCommandCompletes := by
  refine ⟨step_next, fun s w rest hr hw hin => ?_⟩
  obtain ⟨u, e, hturn, hframe⟩ := engineTurn_completes (s := { s with inputs := rest }) hr hw
  exact ⟨_, (step_engine hin).trans hturn, rfl, rfl, rfl, by simp [State.irq, hframe.ie],
    hframe.lastOp, hframe.inputs⟩

end Sys2Proof.Machine
end

section
/-! The sub-fields of a standard message, range by range (R120, R121), and the order in which the message
is classified (R220, R233, R234). -/

namespace Sys2Proof.Machine

open Sys2Proof

/-! ### Digits as characters -/

/-- A number written with given digits reads as their characters. -/
theorem tableText_foldl (table : Text) (ds : List Nat) (h : ∀ d ∈ ds, d < table.length) :
    tableText table ds.length (ds.foldl (fun n d => table.length * n + d) 0) =
      ds.map (tableAt table) := by
  rw [tableText, digits_foldl ds h]

/-- A decimal digit reads as its character (R118). -/
theorem tableAt_table10 {d : Nat} (hd : d < 10) :
    tableAt table10 d = BitVec.ofNat 8 (Char.ofNat (48 + d)).toNat := by
  interval_cases d <;> rfl

/-- Only the digit 0 of a callsign word is a space (R118). -/
theorem tableAt_table27_ne_space {d : Nat} (hd : d < 27) (h0 : 0 < d) :
    tableAt table27 d ≠ spaceByte := by
  interval_cases d <;> decide

/-- Bytes written from numbers are equal only if the numbers are. -/
theorem byte_ofNat_inj {a b : Nat} (ha : a < 256) (hb : b < 256) :
    BitVec.ofNat 8 a = BitVec.ofNat 8 b ↔ a = b := by
  rw [← BitVec.toNat_inj, BitVec.toNat_ofNat, BitVec.toNat_ofNat, Nat.mod_eq_of_lt ha,
    Nat.mod_eq_of_lt hb]

/-! ### The third field -/

/-- A locator (R227, R232). -/
theorem third_of_locator {g : Nat} (h : g ≤ 32399) (ir : Bool) :
    third g ir = .ok {
      text := if ir then ascii ['R', ' '] ++ locatorText g else locatorText g
      kind := if locatorText g = ascii ['R', 'R', '7', '3'] then .rr73 else .loc
      isGrid := true
      l1 := g / 100 % 18
      loc := locatorText g } := if_pos h

/-- A report (R227, R228). -/
theorem third_of_report {g : Nat} (hlo : 32405 ≤ g) (hhi : g ≤ 32534) (ir : Bool) :
    third g ir = .ok (
      if ir then endField (ascii ['R'] ++ report2 ((g : Int) - 32435)) .rrsl
      else endField (report2 ((g : Int) - 32435)) .rsl) := by
  simp (disch := omega) only [third, if_pos, if_neg]

/-- Above the reports nothing decodes (R227). -/
theorem third_of_ge {g : Nat} (h : 32535 ≤ g) (ir : Bool) : third g ir = .error .report := by
  simp (disch := omega) only [third, if_neg]

/-- A locator from its two letters and two digits (R121). -/
theorem locatorText_digits {L0 L1 D0 D1 : Nat} (hL1 : L1 < 18) (hD0 : D0 < 10) (hD1 : D1 < 10) :
    locatorText (((L0 * 18 + L1) * 10 + D0) * 10 + D1) =
      [BitVec.ofNat 8 (65 + L0), BitVec.ofNat 8 (65 + L1),
        BitVec.ofNat 8 (48 + D0), BitVec.ofNat 8 (48 + D1)] := by
  have hletter : (((L0 * 18 + L1) * 10 + D0) * 10 + D1) / 100 = L0 * 18 + L1 := by omega
  have hfirst : (L0 * 18 + L1) / 18 = L0 := by omega
  have hsecond : (L0 * 18 + L1) % 18 = L1 := by omega
  have htens : (((L0 * 18 + L1) * 10 + D0) * 10 + D1) / 10 % 10 = D0 := by omega
  have hones : (((L0 * 18 + L1) * 10 + D0) * 10 + D1) % 10 = D1 := by omega
  rw [locatorText, hletter, hfirst, hsecond, htens, hones]

/-- The one locator that is the text `RR73` (R227). -/
theorem locator_eq_rr73_iff {L0 L1 D0 D1 : Nat} (hL0 : L0 < 18) (hL1 : L1 < 18) (hD0 : D0 < 10)
    (hD1 : D1 < 10) :
    [BitVec.ofNat 8 (65 + L0), BitVec.ofNat 8 (65 + L1), BitVec.ofNat 8 (48 + D0),
      BitVec.ofNat 8 (48 + D1)] = ascii ['R', 'R', '7', '3'] ↔
      L0 = 17 ∧ L1 = 17 ∧ D0 = 7 ∧ D1 = 3 := by
  have hrr73 : ascii ['R', 'R', '7', '3'] =
      [BitVec.ofNat 8 82, BitVec.ofNat 8 82, BitVec.ofNat 8 55, BitVec.ofNat 8 51] := rfl
  simp (disch := omega) only [hrr73, List.cons.injEq, byte_ofNat_inj, and_true]
  omega

/-- A report is its sign and its two decimal digits (R228). -/
theorem report2_eq {r : Int} (h : r.natAbs < 100) :
    report2 r = ascii [if 0 ≤ r then '+' else '-', Char.ofNat (48 + r.natAbs / 10),
      Char.ofNat (48 + r.natAbs % 10)] := by
  have htext : tableText table10 2 r.natAbs =
      [tableAt table10 (r.natAbs / 10 % 10), tableAt table10 (r.natAbs % 10)] := rfl
  rw [report2, htext, Nat.mod_eq_of_lt (show r.natAbs / 10 < 10 by omega),
    tableAt_table10 (by omega), tableAt_table10 (Nat.mod_lt _ (by decide))]
  rfl

/-- Settles O35: a locator and a report by their digits, the other ranges by evaluation. -/
theorem thirdFieldFollowsTheRangesOfG15 : Obligations.ThirdFieldFollowsTheRangesOfG15 := by
  refine ⟨fun L0 L1 D0 D1 ir hL0 hL1 hD0 hD1 => ?locator, fun ir => ⟨rfl, rfl, rfl, rfl, rfl⟩,
    fun r ir hlo hhi => ?report, fun g ir hg => third_of_ge hg ir⟩
  case locator =>
    dsimp only
    have hl1 : (((L0 * 18 + L1) * 10 + D0) * 10 + D1) / 100 % 18 = L1 := by omega
    rw [third_of_locator (by omega), locatorText_digits hL1 hD0 hD1, hl1]
    simp only [locator_eq_rr73_iff hL0 hL1 hD0 hD1]
  case report =>
    have hr : (((r + 32435).toNat : Nat) : Int) - 32435 = r := by omega
    rw [third_of_report (by omega) (by omega), hr, report2_eq (by omega)]
    cases ir <;> rfl

/-! ### A callsign field -/

/-- The numbered CQ (R223). -/
theorem cqNnn_digits {a b c : Nat} (ha : a < 10) (hb : b < 10) (hc : c < 10) :
    cqNnn (100 * a + 10 * b + c) =
      ascii ['C', 'Q', ' ', Char.ofNat (48 + a), Char.ofNat (48 + b), Char.ofNat (48 + c)] := by
  have hv : 100 * a + 10 * b + c = [a, b, c].foldl (fun n d => table10.length * n + d) 0 := by
    change _ = 10 * (10 * (10 * 0 + a) + b) + c
    omega
  have htext := tableText_foldl table10 [a, b, c]
    (by simp only [List.forall_mem_cons]; exact ⟨ha, hb, hc, by simp⟩)
  rw [cqNnn, hv, show (3 : Nat) = [a, b, c].length from rfl, htext, List.map_cons, List.map_cons,
    List.map_cons, tableAt_table10 ha, tableAt_table10 hb, tableAt_table10 hc]
  rfl

/-- The directed CQ: with a letter in it the word does not trim to nothing (R224). -/
theorem cqAaaa_digits {ds : List Nat} (hlen : ds.length = 4) (hds : ∀ d ∈ ds, d < 27)
    (hletter : ∃ d ∈ ds, 0 < d) :
    cqAaaa (ds.foldl (fun n d => 27 * n + d) 0) =
      ascii ['C', 'Q', ' '] ++ trim (ds.map (tableAt table27)) := by
  have htext : tableText table27 4 (ds.foldl (fun n d => 27 * n + d) 0) = ds.map (tableAt table27) :=
    hlen ▸ tableText_foldl table27 ds hds
  obtain ⟨d, hd, hpos⟩ := hletter
  have hne : trim (ds.map (tableAt table27)) ≠ [] :=
    trim_ne_nil (List.mem_map_of_mem hd) (tableAt_table27_ne_space (hds d hd) hpos)
  rw [cqAaaa, htext]
  exact if_neg fun h => hne (List.length_eq_zero_iff.1 h)

/-- A hashed callsign is looked up under the 22-bit key its number stands for (R225). -/
theorem hashed22_toNat (ht : List Slot) (key : BitVec 22) :
    hashed22 ht key.toNat = hashText (ht.find? fun e => e.key = key) := by
  rw [hashed22, BitVec.ofNat_toNat, BitVec.setWidth_eq]
  rfl

section
variable (ht : List Slot) {n : Nat} (ip : Bool) (i3 : Nat)

theorem call28_of_nnn (hlo : 3 ≤ n) (hhi : n ≤ 1002) :
    call28 ht n ip i3 = .ok (cqNnn (n - 3), false) := by
  simp (disch := omega) only [call28, if_pos, if_neg]

theorem call28_of_aaaa (hlo : 1003 ≤ n) (hhi : n ≤ 532443) :
    call28 ht n ip i3 = .ok (cqAaaa (n - 1003), false) := by
  simp (disch := omega) only [call28, if_pos, if_neg]

/-- The reserved tokens (R221). -/
theorem call28_of_reserved (hlo : 532444 ≤ n) (hhi : n < nTokens) :
    call28 ht n ip i3 = .error .token := by
  simp (disch := omega) only [call28, if_pos, if_neg]

theorem call28_of_hash (hlo : nTokens ≤ n) (hhi : n < nTokens + max22) :
    call28 ht n ip i3 = .ok (hashed22 ht (n - nTokens)) := by
  have htokens : nTokens = 2063592 := rfl
  simp (disch := omega) only [call28, if_pos, if_neg]

theorem call28_of_std (h : nTokens + max22 ≤ n) :
    call28 ht n ip i3 = .ok (stdCall (n - nTokens - max22) ip i3, false) := by
  have htokens : nTokens = 2063592 := rfl
  simp (disch := omega) only [call28, if_neg]

end

/-- Settles O36, range by range. -/
theorem callsignFieldFollowsTheRangesOfN28 : Obligations.CallsignFieldFollowsTheRangesOfN28 := by
  intro ht ip i3
  refine ⟨rfl, rfl, rfl, fun a b c ha hb hc => ?nnn, fun a b c d ha hb hc hd hpos => ?aaaa, rfl,
    fun n hlo hhi => call28_of_reserved ht ip i3 hlo (Nat.lt_succ_of_le hhi), fun key => ?hash,
    fun n hn => (call28_of_std ht ip i3 hn).trans ?std⟩
  case nnn =>
    rw [call28_of_nnn ht ip i3 (by omega) (by omega), Nat.add_sub_cancel_left, cqNnn_digits ha hb hc]
  case aaaa =>
    have hv : ((a * 27 + b) * 27 + c) * 27 + d = [a, b, c, d].foldl (fun n d => 27 * n + d) 0 := by
      simp only [List.foldl_cons, List.foldl_nil]
      omega
    rw [call28_of_aaaa ht ip i3 (by omega) (by omega), Nat.add_sub_cancel_left, hv,
      cqAaaa_digits rfl (by simp [ha, hb, hc, hd]) ?_]
    simp only [List.mem_cons, List.not_mem_nil, or_false, exists_eq_or_imp, exists_eq_left]
    omega
  case hash =>
    have hkey : nTokens ≤ 2063592 + key.toNat := Nat.le_add_right _ _
    have hbound : 2063592 + key.toNat < nTokens + max22 := Nat.add_lt_add_left key.isLt _
    rw [call28_of_hash ht ip i3 hkey hbound, show 2063592 + key.toNat - nTokens = key.toNat from
      Nat.add_sub_cancel_left .., hashed22_toNat]
    cases ht.find? fun e => decide (e.key = key) <;> rfl
  case std => rw [Nat.sub_sub]; rfl

/-! ### The standard message -/

/-- The tags of the standard messages name their format (R217). -/
theorem unpackMessage_of_std (ht : List Slot) {m : BitVec 77} (h : tagI3 m = 1 ∨ tagI3 m = 2) :
    unpackMessage ht m = unpackStd ht m (tagI3 m) := by
  rcases unpackMessage_cases ht m with ⟨h0, -⟩ | ⟨h0, -⟩ | ⟨-, e⟩ | ⟨h4, -⟩ | ⟨htag, -⟩
  · omega
  · omega
  · exact e
  · omega
  · omega

/-- Whether the third field is a locator, and the number of its second letter (R227). -/
theorem third_grid {g : Nat} {ir : Bool} {t : ThirdField} (h : third g ir = .ok t) :
    (g ≤ 32399 ∧ t.isGrid = true ∧ t.l1 = g / 100 % 18) ∨ (32399 < g ∧ t.isGrid = false) := by
  rcases third_cases g ir with
    ⟨hg, e⟩ | ⟨-, e⟩ | ⟨hg, e⟩ | ⟨hg, e⟩ | ⟨hg, e⟩ | ⟨hg, e⟩ | ⟨hg, -, e⟩ <;> rw [e] at h
  · cases h; exact .inl ⟨hg, rfl, rfl⟩
  · cases h
  · cases h; exact .inr ⟨by omega, rfl⟩
  · cases h; exact .inr ⟨by omega, rfl⟩
  · cases h; exact .inr ⟨by omega, rfl⟩
  · cases h; exact .inr ⟨by omega, rfl⟩
  · cases ir <;> cases h <;> exact .inr ⟨by omega, rfl⟩

/-- Locator validity by the value of the third field (R234). -/
theorem locatorValid_iff {g : Nat} {ir : Bool} {t : ThirdField} (h : third g ir = .ok t) :
    locatorValid t ir = true ↔
      g ≤ 32399 ∧ ir = false ∧ 1 ≤ g / 100 % 18 ∧ g / 100 % 18 ≤ 16 := by
  rcases third_grid h with ⟨hg, hgrid, hl1⟩ | ⟨hg, hgrid⟩
  · simp [locatorValid, hgrid, hl1, hg, and_assoc]
  · simp [locatorValid, hgrid, Nat.not_le.2 hg]

/-- Byte `k` of four cells packed in a word (R77). -/
theorem wordByte_cellsWord_zero (cells : List Byte) {k : Nat} (hk : k < 4) :
    wordByte (cellsWord cells 0) k = cells.getD k 0 :=
  wordByte_packWord (fun j => cells.getD j 0) hk

/-- The locator bytes of a standard message are those of its third field, or zero (R234). -/
theorem wordByte_stdMsg_loc (n28a : Nat) (a b : Text × Bool) (t : ThirdField) (ir : Bool) {k : Nat}
    (hk : k < 4) : wordByte (stdMsg n28a a b t ir).loc k =
      if (stdMsg n28a a b t ir).locValid then t.loc.getD k 0 else 0 := by
  cases hlv : locatorValid t ir
  · simp [stdMsg, hlv, wordByte]
  · simpa [stdMsg, hlv] using wordByte_cellsWord_zero t.loc hk

/-- The kind of a standard message: the CQ override last (R233). -/
theorem stdMsg_kind (n28a : Nat) (a b : Text × Bool) (t : ThirdField) (ir : Bool) :
    (stdMsg n28a a b t ir).kind = if 2 ≤ n28a ∧ n28a ≤ 532443 then .cq
      else if a.2 || b.2 then .unknown else t.kind := by
  simp only [stdMsg, classify, isCqField, Bool.and_eq_true, decide_eq_true_eq]

/-- Settles O37: the message is `unpackStd` of its fields, which decodes them in order. -/
theorem standardMessageIsClassifiedInOrder : Obligations.StandardMessageIsClassifiedInOrder := by
  intro ht m htag
  have hstd : unpackMessage ht m = unpackStd ht m (bitField m 74 76) := unpackMessage_of_std ht htag
  dsimp only
  rw [hstd, unpackStd]
  refine ⟨fun e hfirst => ?_, fun a e hfirst hsecond => ?_, fun a b e hfirst hsecond hlast => ?_,
    fun a b t hfirst hsecond hlast => ⟨stdMsg (bitField m 0 27) a b t (m.getMsbD 58), ?_, rfl, rfl,
      rfl, rfl, stdMsg_kind .., locatorValid_iff hlast, fun k hk => wordByte_stdMsg_loc _ _ _ _ _ hk⟩⟩
  · rw [hfirst]
  · rw [hfirst, hsecond]
  · rw [hfirst, hsecond, hlast]
  · rw [hfirst, hsecond, hlast]

end Sys2Proof.Machine
end

section
/-! The candidate list of SYNC: inserting each candidate after those of equal or higher score is a stable
sort, and the bounded list of R144 is the front of the sorted one. -/

namespace Sys2Proof.Machine

open Sys2Proof

/-- The order of `CL` (R145): `a` may stand before `b`. -/
abbrev NotBelow (a b : Candidate) : Prop := b.score.toInt ≤ a.score.toInt

theorem pairwise_notBelow_insertionSort (l : List Candidate) :
    (l.insertionSort NotBelow).Pairwise NotBelow := by
  have : Std.Total NotBelow := ⟨fun a b => le_total b.score.toInt a.score.toInt⟩
  have : IsTrans Candidate NotBelow := ⟨fun _ _ _ hab hbc => le_trans hbc hab⟩
  exact List.pairwise_insertionSort NotBelow l

/-- The head of a sorted list is an entry with the highest score. -/
theorem head?_insertionSort {l : List Candidate} {c : Candidate} (hc : c ∈ l) :
    ∃ d ∈ l, (l.insertionSort NotBelow).head? = some d ∧ NotBelow d c := by
  have hsorted := pairwise_notBelow_insertionSort l
  have hmem : ∀ e, e ∈ l.insertionSort NotBelow ↔ e ∈ l := fun e => List.mem_insertionSort NotBelow
  cases hs : l.insertionSort NotBelow with
  | nil => exact absurd ((hmem c).2 hc) (by simp [hs])
  | cons d rest =>
    rw [hs] at hmem hsorted
    refine ⟨d, (hmem d).1 List.mem_cons_self, rfl, ?_⟩
    rcases List.mem_cons.1 ((hmem c).2 hc) with rfl | hrest
    · exact le_refl _
    · exact List.rel_of_pairwise_cons hsorted hrest

/-! ### One insertion (R144) -/

/-- A new candidate goes after a front part in which no score is lower. -/
theorem placeCandidate_append_of_notBelow {front : List Candidate} {c : Candidate}
    (h : ∀ d ∈ front, NotBelow d c) (rest : List Candidate) :
    placeCandidate (front ++ rest) c = front ++ placeCandidate rest c := by
  have hcount : front.countP (fun d => decide (c.score.toInt ≤ d.score.toInt)) = front.length :=
    List.countP_eq_length.2 fun d hd => decide_eq_true (h d hd)
  simp only [placeCandidate, List.countP_append, hcount, List.take_length_add_append,
    List.drop_length_add_append, List.append_assoc]

/-- A new candidate goes before a tail in which every score is lower. -/
theorem placeCandidate_append_of_below {tail : List Candidate} {c : Candidate}
    (h : ∀ d ∈ tail, ¬ NotBelow d c) (front : List Candidate) :
    placeCandidate (front ++ tail) c = placeCandidate front c ++ tail := by
  have hcount : tail.countP (fun d => decide (c.score.toInt ≤ d.score.toInt)) = 0 :=
    List.countP_eq_zero.2 fun d hd => by simpa using h d hd
  have hle := List.countP_le_length (p := fun d => decide (c.score.toInt ≤ d.score.toInt)) (l := front)
  simp only [placeCandidate, List.countP_append, hcount, Nat.add_zero, List.take_append_of_le_length hle,
    List.drop_append_of_le_length hle, List.append_assoc, List.cons_append]

theorem placeCandidate_nil (c : Candidate) : placeCandidate [] c = [c] := rfl

theorem placeCandidate_cons_of_notBelow {d c : Candidate} (h : NotBelow d c) (l : List Candidate) :
    placeCandidate (d :: l) c = d :: placeCandidate l c :=
  placeCandidate_append_of_notBelow (front := [d]) (by simpa using h) l

theorem placeCandidate_of_below {l : List Candidate} {c : Candidate} (h : ∀ d ∈ l, ¬ NotBelow d c) :
    placeCandidate l c = c :: l :=
  placeCandidate_append_of_below h []

/-! ### The insertions together are a stable sort -/

/-- Inserting an earlier candidate `a` in front of its equals and a later one `c` behind them gives the
same list in either order. -/
theorem placeCandidate_orderedInsert {l : List Candidate} (hl : l.Pairwise NotBelow) (a c : Candidate) :
    placeCandidate (l.orderedInsert NotBelow a) c = (placeCandidate l c).orderedInsert NotBelow a := by
  induction l with
  | nil =>
    by_cases hac : NotBelow a c
    · simp [placeCandidate_nil, placeCandidate_cons_of_notBelow hac, hac]
    · simp [placeCandidate_nil, placeCandidate_of_below (l := [a]) (by simpa using hac), hac]
  | cons d l ih =>
    obtain ⟨hd, hl'⟩ := List.pairwise_cons.1 hl
    by_cases hdc : NotBelow d c
    · rw [placeCandidate_cons_of_notBelow hdc]
      by_cases had : NotBelow a d
      · have hac : NotBelow a c := le_trans hdc had
        rw [List.orderedInsert_cons_of_le _ _ had, List.orderedInsert_cons_of_le _ _ had,
          placeCandidate_cons_of_notBelow hac, placeCandidate_cons_of_notBelow hdc]
      · rw [List.orderedInsert_of_not_le _ _ had, List.orderedInsert_of_not_le _ _ had,
          placeCandidate_cons_of_notBelow hdc, ih hl']
    · have hbelow : ∀ e ∈ d :: l, ¬ NotBelow e c := by
        intro e he hec
        rcases List.mem_cons.1 he with rfl | he
        · exact hdc hec
        · exact hdc (le_trans hec (hd e he))
      rw [placeCandidate_of_below hbelow]
      by_cases hac : NotBelow a c
      · have had : NotBelow a d := (not_le.1 hdc).le.trans hac
        rw [List.orderedInsert_cons_of_le _ _ had, List.orderedInsert_cons_of_le _ _ hac,
          placeCandidate_cons_of_notBelow hac, placeCandidate_of_below hbelow]
      · rw [List.orderedInsert_of_not_le _ _ hac, placeCandidate_of_below]
        intro e he
        rcases (List.mem_orderedInsert NotBelow).1 he with rfl | he
        · exact hac
        · exact hbelow e he

/-- The stable sort of a longer list is one insertion into the sort of the list. -/
theorem insertionSort_concat (l : List Candidate) (c : Candidate) :
    (l ++ [c]).insertionSort NotBelow = placeCandidate (l.insertionSort NotBelow) c := by
  induction l with
  | nil => rfl
  | cons a l ih =>
    rw [List.cons_append, List.insertionSort_cons, ih, List.insertionSort_cons,
      placeCandidate_orderedInsert (pairwise_notBelow_insertionSort l)]

/-! ### The bounded list -/

/-- The entries up to one that is not below `c` are not below `c`. -/
theorem notBelow_of_mem_take {l : List Candidate} (hl : l.Pairwise NotBelow) {k : Nat} (hk : k < l.length)
    {c : Candidate} (h : NotBelow l[k] c) : ∀ d ∈ l.take (k + 1), NotBelow d c := by
  intro d hd
  obtain ⟨i, hi, rfl⟩ := List.mem_iff_getElem.1 hd
  rw [List.length_take] at hi
  rw [List.getElem_take]
  rcases (show i ≤ k by omega).eq_or_lt with rfl | hik
  · exact h
  · exact le_trans h (List.pairwise_iff_getElem.1 hl i k _ hk hik)

/-- The entries from one below `c` on are below `c`. -/
theorem below_of_mem_drop {l : List Candidate} (hl : l.Pairwise NotBelow) {k : Nat} (hk : k < l.length)
    {c : Candidate} (h : ¬ NotBelow l[k] c) : ∀ d ∈ l.drop k, ¬ NotBelow d c := by
  intro d hd hdc
  obtain ⟨i, hi, rfl⟩ := List.mem_iff_getElem.1 hd
  rw [List.getElem_drop] at hdc
  rcases Nat.eq_zero_or_pos i with rfl | hpos
  · exact h hdc
  · exact h (le_trans hdc (List.pairwise_iff_getElem.1 hl k (k + i) hk _ (by omega)))

/-- An insertion into a full list, whose last entry decides. -/
theorem insertCandidate_of_full {k : Nat} {kept : List Candidate} (hlen : kept.length = k + 1)
    (c : Candidate) : insertCandidate (k + 1) kept c =
      if NotBelow (kept[k]'(by omega)) c then kept else placeCandidate kept.dropLast c := by
  have hlast : kept.getD (kept.length - 1) Candidate.zero = kept[k] := by
    simp [hlen]
  rw [insertCandidate, if_neg k.succ_ne_zero, if_pos hlen, hlast]

/-- An insertion into the first `m` entries of a sorted list gives the first `m` entries of the list with
the insertion (R144). -/
theorem insertCandidate_take {l : List Candidate} (hl : l.Pairwise NotBelow) (m : Nat) (c : Candidate) :
    insertCandidate m (l.take m) c = (placeCandidate l c).take m := by
  cases m with
  | zero => simp [insertCandidate]
  | succ k =>
    rcases Nat.lt_or_ge k l.length with hk | hk
    · have hfull : (l.take (k + 1)).length = k + 1 := List.length_take_of_le hk
      rw [insertCandidate_of_full hfull, List.getElem_take]
      split
      case isTrue hlast =>
        conv_rhs => rw [← List.take_append_drop (k + 1) l,
          placeCandidate_append_of_notBelow (notBelow_of_mem_take hl hk hlast)]
        rw [List.take_left' hfull]
      case isFalse hlast =>
        have hroom : (placeCandidate (l.take k) c).length = k + 1 := by
          rw [length_placeCandidate, List.length_take_of_le hk.le]
        conv_rhs => rw [← List.take_append_drop k l,
          placeCandidate_append_of_below (below_of_mem_drop hl hk hlast)]
        rw [List.take_left' hroom, List.dropLast_eq_take, hfull, List.take_take]
        simp
    · rw [List.take_of_length_le (by omega), List.take_of_length_le (by rw [length_placeCandidate]; omega),
        insertCandidate, if_neg k.succ_ne_zero, if_neg (by omega)]

/-- The insertions of SYNC keep the front of the stable sort (R144, R145). -/
theorem foldl_insertCandidate (m : Nat) (l : List Candidate) :
    l.foldl (insertCandidate m) [] = (l.insertionSort NotBelow).take m := by
  induction l using List.reverseRecOn with
  | nil => simp
  | append_singleton l c ih =>
    rw [List.foldl_concat, ih, insertCandidate_take (pairwise_notBelow_insertionSort l),
      insertionSort_concat]

theorem syncKept_eq (s : State) :
    syncKept s = ((qualifying s).insertionSort NotBelow).take s.maxCand.toNat :=
  foldl_insertCandidate _ _

theorem length_syncKept (s : State) :
    (syncKept s).length = min (qualifying s).length s.maxCand.toNat := by
  rw [syncKept_eq, List.length_take, List.length_insertionSort, Nat.min_comm]

/-- Settles O17: each insertion, and so the kept list, is the front of the stable sort. -/
theorem syncKeepsTheBestCandidatesStablySorted :
    Obligations.SyncKeepsTheBestCandidatesStablySorted := by
  intro s
  refine ⟨_, exec_eq .sync s, rfl, ⟨?_, ?_⟩, fun _ => rfl⟩
  · change (BitVec.ofNat 7 (syncKept s).length).toNat = _
    have hlen := length_syncKept_le s
    rw [toNat_ofNat_of_lt (hlen.trans_lt s.maxCand.isLt), length_syncKept]
  · change syncKept s ++ List.replicate (s.cfg.candCap - (syncKept s).length) Candidate.zero = _
    rw [syncKept_eq]

end Sys2Proof.Machine
end

section
/-! SYNC's search: the positions inside the matrix, and the bounds of their scores. -/

namespace Sys2Proof.Machine

open Sys2Proof

/-! ### The search range (R141, R143) -/

/-- A sample inside the matrix has a cell of `PM` (R75). -/
theorem cellIndex_lt_pmBytes {p : Config.Params} {row fs bin : Nat} (hrow : row < p.numRows)
    (hfs : fs < 2) (hbin : bin < p.numBins) : cellIndex p row fs bin < p.pmBytes := by
  have hline : row * 2 + fs + 1 ≤ p.numRows * 2 := by omega
  calc (row * 2 + fs) * p.numBins + bin
      < (row * 2 + fs + 1) * p.numBins := by rw [Nat.add_one_mul]; omega
    _ ≤ p.numRows * 2 * p.numBins := Nat.mul_le_mul_right _ hline

/-- The rows and bins that the score of a searched position reads (R141). -/
theorem sample_inside {p : Config.Params} {fs t f : Nat} (h : (fs, t, f) ∈ searchPositions p) {n j : Nat}
    (hn : n < 79) (hj : j < 8) :
    symbolRow p t n < p.numRows ∧ fs < 2 ∧ f + j < p.numBins := by
  obtain ⟨hfs, ht, hf⟩ := mem_searchPositions.1 h
  have hrow : n * p.timeOsr ≤ 78 * p.timeOsr := Nat.mul_le_mul_right _ (by omega)
  refine ⟨?_, hfs, by omega⟩
  unfold symbolRow
  omega

/-- The lexicographic order of the positions `(fs, t, f)` (R143). -/
abbrev FoundBefore (a b : Nat × Nat × Nat) : Prop :=
  a.1 < b.1 ∨ (a.1 = b.1 ∧ (a.2.1 < b.2.1 ∨ (a.2.1 = b.2.1 ∧ a.2.2 < b.2.2)))

theorem pairwise_searchPositions (p : Config.Params) : (searchPositions p).Pairwise FoundBefore := by
  simp only [searchPositions, List.pairwise_flatMap, List.pairwise_map, List.mem_flatMap, List.mem_map]
  refine ⟨fun fs _ => ⟨fun t _ => ?_, ?_⟩, ?_⟩
  · exact List.pairwise_lt_range.imp fun h => .inr ⟨rfl, .inr ⟨rfl, h⟩⟩
  · refine List.pairwise_lt_range.imp fun h => ?_
    rintro _ ⟨_, -, rfl⟩ _ ⟨_, -, rfl⟩
    exact .inr ⟨rfl, .inl h⟩
  · refine List.pairwise_lt_range.imp fun h => ?_
    rintro _ ⟨_, -, _, -, rfl⟩ _ ⟨_, -, _, -, rfl⟩
    exact .inl h

/-- Settles O19, from the three nested ranges of the search. -/
theorem syncSearchesEveryPositionInsideTheMatrixInOrder :
    Obligations.SyncSearchesEveryPositionInsideTheMatrixInOrder := by
  intro p
  refine ⟨fun fs t f => mem_searchPositions.trans ?_, pairwise_searchPositions p, ?_⟩
  · omega
  · intro fs t f h n hn j hj
    obtain ⟨hrow, hfs, hbin⟩ := sample_inside h hn hj
    exact cellIndex_lt_pmBytes hrow hfs hbin

/-! ### The score (R142) -/

theorem syncTone_lt (m : BitVec 21) (k : Nat) : syncTone m k < 8 := Nat.mod_lt _ (by decide)

theorem pmAt_le (s : State) (row fs bin : Nat) : s.pmAt row fs bin ≤ 255 :=
  Nat.le_of_lt_succ (s.pmCell _).isLt

theorem toneSum_eq_sum (s : State) (fs row f : Nat) :
    toneSum s fs row f = ∑ j ∈ Finset.range 8, (s.pmAt row fs (f + j) : Int) := rfl

theorem syncTerm_eq (s : State) (fs t f b k : Nat) : syncTerm s fs t f b k =
    8 * (s.pmAt (symbolRow s.cfg t (36 * b + k)) fs (f + syncTone s.syncMap k) : Int)
      - toneSum s fs (symbolRow s.cfg t (36 * b + k)) f := rfl

/-- The 21 terms of the score, over the pairs of a sync block and a symbol of it. -/
theorem syncAcc_eq_sum (s : State) (fs t f : Nat) :
    syncAcc s fs t f = ∑ i ∈ Finset.range 3 ×ˢ Finset.range 7, syncTerm s fs t f i.1 i.2 := by
  rw [Finset.sum_product]
  rfl

/-- The sum of the eight tones lies between one of them and that tone with seven full ones. -/
theorem toneSum_bounds (s : State) (fs row f : Nat) {j : Nat} (hj : j < 8) :
    (s.pmAt row fs (f + j) : Int) ≤ toneSum s fs row f ∧
      toneSum s fs row f ≤ s.pmAt row fs (f + j) + 7 * 255 := by
  have hmem : j ∈ Finset.range 8 := Finset.mem_range.2 hj
  have hothers : ∑ i ∈ (Finset.range 8).erase j, (s.pmAt row fs (f + i) : Int) ≤ 7 * 255 := by
    have hle := Finset.sum_le_card_nsmul ((Finset.range 8).erase j)
      (fun i => (s.pmAt row fs (f + i) : Int)) 255 fun i _ => by exact_mod_cast pmAt_le s row fs (f + i)
    simpa [Finset.card_erase_of_mem hmem] using hle
  have hnonneg : 0 ≤ ∑ i ∈ (Finset.range 8).erase j, (s.pmAt row fs (f + i) : Int) :=
    Finset.sum_nonneg fun i _ => Int.natCast_nonneg _
  rw [toneSum_eq_sum, ← Finset.add_sum_erase _ _ hmem]
  omega

/-- A term of the score is at most seven times its expected tone, and at least minus seven full ones. -/
theorem syncTerm_bounds (s : State) (fs t f b k : Nat) :
    -1785 ≤ syncTerm s fs t f b k ∧ syncTerm s fs t f b k ≤
      7 * s.pmAt (symbolRow s.cfg t (36 * b + k)) fs (f + syncTone s.syncMap k) := by
  have h := toneSum_bounds s fs (symbolRow s.cfg t (36 * b + k)) f (syncTone_lt s.syncMap k)
  rw [syncTerm_eq]
  omega

theorem syncScore_bounds (s : State) (fs t f : Nat) :
    -1785 ≤ syncScore s fs t f ∧ syncScore s fs t f ≤ 1785 := by
  have hlow : 21 * (-1785) ≤ syncAcc s fs t f := by
    rw [syncAcc_eq_sum]
    exact Finset.card_nsmul_le_sum (Finset.range 3 ×ˢ Finset.range 7) _ (-1785) fun i _ =>
      (syncTerm_bounds s fs t f i.1 i.2).1
  have hhigh : syncAcc s fs t f ≤ 21 * 1785 := by
    rw [syncAcc_eq_sum]
    refine Finset.sum_le_card_nsmul (Finset.range 3 ×ˢ Finset.range 7) _ 1785 fun i _ => ?_
    have hterm := (syncTerm_bounds s fs t f i.1 i.2).2
    have hcell := pmAt_le s (symbolRow s.cfg t (36 * i.1 + i.2)) fs (f + syncTone s.syncMap i.2)
    omega
  exact ⟨Int.tdiv_le_tdiv (by decide) hlow, Int.tdiv_le_tdiv (by decide) hhigh⟩

/-- The score fits the 16 bits of its field (R142). -/
theorem toInt_score_candidateAt (s : State) (pos : Nat × Nat × Nat) :
    (candidateAt s pos).score.toInt = syncScore s pos.1 pos.2.1 pos.2.2 := by
  obtain ⟨hlow, hhigh⟩ := syncScore_bounds s pos.1 pos.2.1 pos.2.2
  exact BitVec.toInt_ofInt_eq_self (by decide) (by omega) (by omega)

theorem mem_qualifying {s : State} {c : Candidate} : c ∈ qualifying s ↔ ∃ fs t f,
    (fs, t, f) ∈ searchPositions s.cfg ∧ s.minScore.toInt ≤ syncScore s fs t f ∧
      candidateAt s (fs, t, f) = c := by
  simp [qualifying, and_assoc]

/-- Settles O18, from the bounds of the 21 terms. -/
theorem syncScoreIsBoundedAndFitsItsField : Obligations.SyncScoreIsBoundedAndFitsItsField := by
  intro s
  refine ⟨fun fs t f => ?_, fun c hc => ?_⟩
  · obtain ⟨hlow, hhigh⟩ := syncScore_bounds s fs t f
    exact ⟨hlow, hhigh, toInt_score_candidateAt s (fs, t, f)⟩
  · obtain ⟨fs, t, f, -, hmin, rfl⟩ := mem_qualifying.1 hc
    exact hmin.trans_eq (toInt_score_candidateAt s (fs, t, f)).symm

end Sys2Proof.Machine
end

section
/-! The peak of an injected sync pattern (R147): the pattern lies under the expected tones of its own
position only. -/

namespace Sys2Proof.Machine

open Sys2Proof

/-- The sample is one of the 21 expected tones of the position `(fs₀, t₀, f₀)`. -/
def SyncCell (s : State) (fs₀ t₀ f₀ row fs bin : Nat) : Prop :=
  ∃ b < 3, ∃ k < 7, fs = fs₀ ∧ row = symbolRow s.cfg t₀ (36 * b + k) ∧ bin = f₀ + syncTone s.syncMap k

/-- The matrix is zero but for `A` at the sync cells of `(fs₀, t₀, f₀)` (R147). -/
structure Injected (s : State) (fs₀ t₀ f₀ A : Nat) : Prop where
  searched : (fs₀, t₀, f₀) ∈ searchPositions s.cfg
  peak : ∀ {row fs bin}, SyncCell s fs₀ t₀ f₀ row fs bin → s.pmAt row fs bin = A
  zero : ∀ {row fs bin}, row < s.cfg.numRows → fs < 2 → bin < s.cfg.numBins →
    ¬ SyncCell s fs₀ t₀ f₀ row fs bin → s.pmAt row fs bin = 0

section
variable {s : State} {fs₀ t₀ f₀ : Nat}

/-- Different symbols have different rows. -/
theorem symbolRow_injective {p : Config.Params} (h : 1 ≤ p.timeOsr) (t : Nat) {m n : Nat}
    (he : symbolRow p t m = symbolRow p t n) : m = n :=
  Nat.eq_of_mul_eq_mul_right h (Nat.add_left_cancel he)

/-- In the row of a sync symbol only the expected tone is a sync cell. -/
theorem syncCell_tone_iff (hosr : 1 ≤ s.cfg.timeOsr) {b k j : Nat} (hb : b < 3) (hk : k < 7) :
    SyncCell s fs₀ t₀ f₀ (symbolRow s.cfg t₀ (36 * b + k)) fs₀ (f₀ + j) ↔ j = syncTone s.syncMap k := by
  constructor
  · rintro ⟨b', hb', k', hk', -, hrow, hbin⟩
    have hsymbol := symbolRow_injective hosr t₀ hrow
    obtain rfl : k = k' := by omega
    exact Nat.add_left_cancel hbin
  · rintro rfl
    exact ⟨b, hb, k, hk, rfl, rfl, rfl⟩

/-- A position whose first and last expected tones are sync cells is the injected one: its rows neither
start earlier nor end later, and its first tone is the first of the pattern. -/
theorem eq_of_syncCell_ends (hosr : 1 ≤ s.cfg.timeOsr) {fs t f : Nat}
    (hfirst : SyncCell s fs₀ t₀ f₀ (symbolRow s.cfg t 0) fs (f + syncTone s.syncMap 0))
    (hlast : SyncCell s fs₀ t₀ f₀ (symbolRow s.cfg t 78) fs (f + syncTone s.syncMap 6)) :
    (fs, t, f) = (fs₀, t₀, f₀) := by
  obtain ⟨b, hb, k, hk, rfl, hrow, hbin⟩ := hfirst
  obtain ⟨b', hb', k', hk', -, hrow', -⟩ := hlast
  have hend : (36 * b' + k') * s.cfg.timeOsr ≤ 78 * s.cfg.timeOsr := Nat.mul_le_mul_right _ (by omega)
  have hstart : symbolRow s.cfg t₀ 0 = symbolRow s.cfg t₀ (36 * b + k) := by
    unfold symbolRow at *
    omega
  have hsymbol := symbolRow_injective hosr t₀ hstart
  obtain ⟨rfl, rfl⟩ : b = 0 ∧ k = 0 := by omega
  unfold symbolRow at hrow
  obtain rfl : t = t₀ := by omega
  obtain rfl : f = f₀ := by omega
  rfl

/-- Every other position expects some tone where there is no sync cell. -/
theorem exists_not_syncCell (hosr : 1 ≤ s.cfg.timeOsr) {fs t f : Nat} (hne : (fs, t, f) ≠ (fs₀, t₀, f₀)) :
    ∃ b < 3, ∃ k < 7, ¬ SyncCell s fs₀ t₀ f₀ (symbolRow s.cfg t (36 * b + k)) fs
      (f + syncTone s.syncMap k) := by
  by_contra hall
  push Not at hall
  exact hne (eq_of_syncCell_ends hosr (hall 0 (by decide) 0 (by decide)) (hall 2 (by decide) 6 (by decide)))

end

section
variable {s : State} {fs₀ t₀ f₀ A : Nat}

/-- The eight tones of a sync symbol of the injected position sum to `A`. -/
theorem Injected.toneSum_eq (h : Injected s fs₀ t₀ f₀ A) (hosr : 1 ≤ s.cfg.timeOsr) {b k : Nat}
    (hb : b < 3) (hk : k < 7) : toneSum s fs₀ (symbolRow s.cfg t₀ (36 * b + k)) f₀ = A := by
  rw [toneSum_eq_sum, Finset.sum_eq_single (syncTone s.syncMap k)]
  · rw [h.peak ((syncCell_tone_iff hosr hb hk).2 rfl)]
  · intro j hj hne
    obtain ⟨hrow, hfs, hbin⟩ :=
      sample_inside h.searched (show 36 * b + k < 79 by omega) (Finset.mem_range.1 hj)
    rw [h.zero hrow hfs hbin (hne ∘ (syncCell_tone_iff hosr hb hk).1), Nat.cast_zero]
  · exact fun hout => absurd (Finset.mem_range.2 (syncTone_lt _ _)) hout

/-- The injected position has the peak score (R147). -/
theorem Injected.syncScore_eq (h : Injected s fs₀ t₀ f₀ A) (hosr : 1 ≤ s.cfg.timeOsr) :
    syncScore s fs₀ t₀ f₀ = 7 * A := by
  have hterm : ∀ i ∈ Finset.range 3 ×ˢ Finset.range 7, syncTerm s fs₀ t₀ f₀ i.1 i.2 = 7 * A := by
    intro i hi
    obtain ⟨hb, hk⟩ := Finset.mem_product.1 hi
    rw [Finset.mem_range] at hb hk
    rw [syncTerm_eq, h.toneSum_eq hosr hb hk, h.peak ((syncCell_tone_iff hosr hb hk).2 rfl)]
    ring
  have hacc : syncAcc s fs₀ t₀ f₀ = 21 * (7 * A) := by
    rw [syncAcc_eq_sum, Finset.sum_eq_card_nsmul hterm]
    rfl
  rw [syncScore, hacc, Int.mul_tdiv_cancel_left _ (by decide)]

/-- No term of a searched position exceeds `7*A`, and one whose expected tone is no sync cell is not
positive. -/
theorem Injected.syncTerm_le (h : Injected s fs₀ t₀ f₀ A) {fs t f : Nat}
    (hpos : (fs, t, f) ∈ searchPositions s.cfg) {b k : Nat} (hb : b < 3) (hk : k < 7) :
    syncTerm s fs t f b k ≤ 7 * A ∧
      (¬ SyncCell s fs₀ t₀ f₀ (symbolRow s.cfg t (36 * b + k)) fs (f + syncTone s.syncMap k) →
        syncTerm s fs t f b k ≤ 0) := by
  have hterm := (syncTerm_bounds s fs t f b k).2
  obtain ⟨hrow, hfs, hbin⟩ :=
    sample_inside hpos (show 36 * b + k < 79 by omega) (syncTone_lt s.syncMap k)
  by_cases hcell : SyncCell s fs₀ t₀ f₀ (symbolRow s.cfg t (36 * b + k)) fs (f + syncTone s.syncMap k)
  · rw [h.peak hcell] at hterm
    exact ⟨hterm, fun hno => absurd hcell hno⟩
  · rw [h.zero hrow hfs hbin hcell] at hterm
    exact ⟨by omega, fun _ => by omega⟩

/-- Every other searched position has a lower score (R147). -/
theorem Injected.syncScore_lt (h : Injected s fs₀ t₀ f₀ A) (hosr : 1 ≤ s.cfg.timeOsr) (hA : 1 ≤ A)
    {fs t f : Nat} (hpos : (fs, t, f) ∈ searchPositions s.cfg) (hne : (fs, t, f) ≠ (fs₀, t₀, f₀)) :
    syncScore s fs t f < 7 * A := by
  obtain ⟨b, hb, k, hk, hcell⟩ := exists_not_syncCell (s := s) hosr hne
  have hacc : syncAcc s fs t f < 21 * (7 * A) := by
    calc syncAcc s fs t f
        = ∑ i ∈ Finset.range 3 ×ˢ Finset.range 7, syncTerm s fs t f i.1 i.2 := syncAcc_eq_sum ..
      _ < ∑ _i ∈ Finset.range 3 ×ˢ Finset.range 7, (7 * A : Int) := by
        refine Finset.sum_lt_sum (fun i hi => ?_) ⟨(b, k), ?_, ?_⟩
        · obtain ⟨hb', hk'⟩ := Finset.mem_product.1 hi
          exact (h.syncTerm_le hpos (Finset.mem_range.1 hb') (Finset.mem_range.1 hk')).1
        · exact Finset.mem_product.2 ⟨Finset.mem_range.2 hb, Finset.mem_range.2 hk⟩
        · have := (h.syncTerm_le hpos hb hk).2 hcell
          dsimp only
          omega
      _ = 21 * (7 * A) := by rw [Finset.sum_const]; rfl
  rcases le_total 0 (syncAcc s fs t f) with hnonneg | hneg
  · rw [syncScore, Int.tdiv_eq_ediv_of_nonneg hnonneg]
    omega
  · have hzero : syncScore s fs t f ≤ 0 := Int.tdiv_le_tdiv (by decide) hneg
    omega

/-- The candidate of the injected position, with its score as a number (R147). -/
theorem Injected.candidateAt_eq (h : Injected s fs₀ t₀ f₀ A) (hosr : 1 ≤ s.cfg.timeOsr) :
    candidateAt s (fs₀, t₀, f₀) =
      { score := BitVec.ofNat 16 (7 * A), timeOffset := BitVec.ofNat 16 t₀,
        freqOffset := BitVec.ofNat 16 f₀, freqSub := BitVec.ofNat 1 fs₀ } := by
  have hfield : BitVec.ofInt 16 (7 * A : Int) = BitVec.ofNat 16 (7 * A) := BitVec.ofInt_natCast 16 (7 * A)
  simp only [candidateAt, h.syncScore_eq hosr, hfield]

/-- The injected position, if it qualifies, comes first in the sorted list (R147). -/
theorem Injected.head?_sorted (h : Injected s fs₀ t₀ f₀ A) (hosr : 1 ≤ s.cfg.timeOsr) (hA : 1 ≤ A)
    (hmin : s.minScore.toInt ≤ 7 * A) :
    ((qualifying s).insertionSort NotBelow).head? = some (candidateAt s (fs₀, t₀, f₀)) := by
  have hscore := h.syncScore_eq hosr
  have hqual : candidateAt s (fs₀, t₀, f₀) ∈ qualifying s :=
    mem_qualifying.2 ⟨fs₀, t₀, f₀, h.searched, hscore ▸ hmin, rfl⟩
  obtain ⟨d, hd, hhead, hbest⟩ := head?_insertionSort hqual
  obtain ⟨fs, t, f, hpos, -, rfl⟩ := mem_qualifying.1 hd
  simp only [NotBelow, toInt_score_candidateAt, hscore] at hbest
  by_cases he : (fs, t, f) = (fs₀, t₀, f₀)
  · rw [hhead, he]
  · exact absurd (h.syncScore_lt hosr hA hpos he) (not_lt.2 hbest)

end

/-- Settles O20: the peak of an injected pattern, and the head of the sorted list. -/
theorem injectedSyncPatternHasThePeakScore : Obligations.InjectedSyncPatternHasThePeakScore := by
  intro s fs₀ t₀ f₀ A hlegal hsearched hA _ hpeak hzero
  obtain ⟨hosr, -⟩ := Config.bounds_of_legal hlegal
  have h : Injected s fs₀ t₀ f₀ A :=
    { searched := hsearched
      peak := by
        rintro row fs bin ⟨b, hb, k, hk, rfl, rfl, rfl⟩
        exact hpeak b hb k hk
      zero := fun hrow hfs hbin hcell =>
        hzero _ _ _ hrow hfs hbin fun b hb k hk he => hcell ⟨b, hb, k, hk, he⟩ }
  have hscore := h.syncScore_eq hosr
  refine ⟨hscore, fun fs t f => h.syncScore_lt hosr hA, fun hreset _ => by omega, fun hmin hmax => ?_⟩
  obtain ⟨t, ht, -, ⟨-, hcl⟩, -⟩ := syncKeepsTheBestCandidatesStablySorted s
  refine ⟨t, ht, ?_⟩
  rw [hcl, List.head?_append, List.head?_take, if_neg (by omega), h.head?_sorted hosr hA hmin,
    Option.some_or, h.candidateAt_eq hosr]

end Sys2Proof.Machine
end

section
/-! EXTRACT: its two errors, the samples it reads, and its likelihood values as differences of the
largest tone powers. -/

namespace Sys2Proof.Machine

open Sys2Proof

/-! ### The command, case by case -/

/-- EXTRACT raises one of its two errors, changing only `STATUS` and the phase, or completes with the
likelihood values of the candidate (R160 to R162, R324). -/
theorem exec_extract_cases (idx : Nat) (s : State) :
    (s.candCount.toNat ≤ idx ∧ exec (.extract idx) s = .next (s.completeWith .operand)) ∨
    (idx < s.candCount.toNat ∧ inRange s.cfg (s.candidate idx) = false ∧
      exec (.extract idx) s = .next (s.completeWith .geom)) ∨
    (idx < s.candCount.toNat ∧ inRange s.cfg (s.candidate idx) = true ∧
      exec (.extract idx) s = .next ({ s with
        valid := Valid.afterExtract
        curCand := BitVec.ofNat 7 idx
        llr := llrValues s (s.candidate idx) }.completeWith .ok)) := by
  have hexec : exec (.extract idx) s = (extractBody idx (s.enter .extract)).finish := rfl
  rw [hexec]
  rcases extractBody_cases idx (s.enter .extract) with ⟨hidx, e⟩ | ⟨hidx, hr, e⟩ | ⟨hidx, hr, e⟩ <;> rw [e]
  · exact .inl ⟨hidx, rfl⟩
  · exact .inr (.inl ⟨hidx, hr, rfl⟩)
  · exact .inr (.inr ⟨hidx, hr, rfl⟩)

/-- Settles O22: 64 and more is beyond every list, by the bounds of `CAND_COUNT` and `CAND_CAP`. -/
theorem extractBeyondTheListRaisesOperand : Obligations.ExtractBeyondTheListRaisesOperand := by
  intro s idx hinv hbeyond
  obtain ⟨-, -, -, hcap, -⟩ := Config.bounds_of_legal hinv.legal
  have hcount := hinv.candCount
  rcases exec_extract_cases idx s with ⟨-, e⟩ | ⟨hidx, -⟩ | ⟨hidx, -⟩
  · exact e
  all_goals omega

/-! ### The range check (R162) -/

theorem inRange_iff {p : Config.Params} {c : Candidate} : inRange p c = true ↔
    0 ≤ c.timeOffset.toInt ∧ c.timeOffset.toInt ≤ (p.numRows : Int) - 1 - 78 * p.timeOsr ∧
      (c.freqOffset.toNat : Int) ≤ (p.numBins : Int) - 8 := by
  simp [inRange, and_assoc]

/-- A candidate in range is at a position that SYNC searches (R141, R162). -/
theorem mem_searchPositions_of_inRange {p : Config.Params} {c : Candidate} (h : inRange p c = true) :
    (c.freqSub.toNat, c.timeOffset.toNat, c.freqOffset.toNat) ∈ searchPositions p := by
  obtain ⟨hnonneg, hrow, hbin⟩ := inRange_iff.1 h
  have htime : c.timeOffset.toInt = c.timeOffset.toNat :=
    BitVec.toInt_eq_toNat_of_msb (BitVec.msb_eq_false_iff_two_mul_lt.2 (BitVec.toInt_pos_iff.1 hnonneg))
  exact mem_searchPositions.2 ⟨c.freqSub.isLt, by omega, by omega⟩

theorem dataSymbol_lt {d : Nat} (h : d < 58) : dataSymbol d < 79 := by
  unfold dataSymbol
  split <;> omega

theorem grayTone_lt (m : BitVec 24) (j : Nat) : grayTone m j < 8 := Nat.mod_lt _ (by decide)

/-- Settles O23: the samples of a candidate in range are among those of a position that SYNC searches. -/
theorem extractOutsideTheMatrixRaisesGeom : Obligations.ExtractOutsideTheMatrixRaisesGeom := by
  intro s idx hidx c inside
  rcases exec_extract_cases idx s with ⟨hout, -⟩ | ⟨-, hr, e⟩ | ⟨-, hr, e⟩
  · omega
  · exact ⟨fun _ => e, fun hin => absurd (inRange_iff.2 hin) (by rw [hr]; decide)⟩
  · refine ⟨fun hout => absurd (inRange_iff.1 hr) hout, fun _ => ⟨⟨_, e, rfl⟩, fun d hd j _ => ?_⟩⟩
    obtain ⟨hrow, hfs, hbin⟩ := sample_inside (mem_searchPositions_of_inRange hr) (dataSymbol_lt hd)
      (grayTone_lt s.grayMap j)
    exact cellIndex_lt_pmBytes hrow hfs hbin

/-! ### The likelihood values (R160, R163) -/

/-- The powers of the group values whose bit `q` is `b`, bit 0 the most significant (R163). -/
abbrev bitPowers (p : Nat → Int) (q b : Nat) : Set Int :=
  { x | ∃ j < 8, j / 2 ^ (2 - q) % 2 = b ∧ x = p j }

theorem isGreatest_max4 (a b c d : Int) : IsGreatest ({a, b} ∪ {c, d}) (max4 a b c d) :=
  isGreatest_pair.union isGreatest_pair

/-- The four group values with a given bit, listed, give the powers with that bit. -/
theorem isGreatest_bitPowers (p : Nat → Int) {q b i j k l : Nat}
    (h : (List.range 8).filter (fun n => n / 2 ^ (2 - q) % 2 = b) = [i, j, k, l]) :
    IsGreatest (bitPowers p q b) (max4 (p i) (p j) (p k) (p l)) := by
  have hmem : ∀ n, n < 8 ∧ n / 2 ^ (2 - q) % 2 = b ↔ n ∈ [i, j, k, l] := by
    intro n
    rw [← h, List.mem_filter, List.mem_range, decide_eq_true_eq]
  have hset : bitPowers p q b = {p i, p j} ∪ {p k, p l} := by
    ext x
    simp only [bitPowers, Set.mem_ofPred_eq, ← and_assoc, hmem, Set.mem_union, Set.mem_insert_iff,
      Set.mem_singleton_iff]
    simp [or_assoc]
  rw [hset]
  exact isGreatest_max4 _ _ _ _

/-- A likelihood value is the largest power with its bit set minus the largest with it clear (R163). -/
theorem llrBit_eq_sub (p : Nat → Int) {q : Nat} (hq : q < 3) : ∃ one zero : Int,
    IsGreatest (bitPowers p q 1) one ∧ IsGreatest (bitPowers p q 0) zero ∧ llrBit q p = one - zero := by
  match q, hq with
  | 0, _ => exact ⟨_, _, isGreatest_bitPowers p rfl, isGreatest_bitPowers p rfl, rfl⟩
  | 1, _ => exact ⟨_, _, isGreatest_bitPowers p rfl, isGreatest_bitPowers p rfl, rfl⟩
  | 2, _ => exact ⟨_, _, isGreatest_bitPowers p rfl, isGreatest_bitPowers p rfl, rfl⟩

/-- The largest power of a data symbol is a power, so it fits a byte (R75). -/
theorem isGreatest_groupPower_bounds {s : State} {c : Candidate} {d q b : Nat} {m : Int}
    (h : IsGreatest (bitPowers (groupPower s c d) q b) m) : 0 ≤ m ∧ m ≤ 255 := by
  obtain ⟨j, -, -, rfl⟩ := h.1
  exact ⟨Int.natCast_nonneg _, Int.ofNat_le.2 (pmAt_le s _ _ _)⟩

/-- Entry `3d + q` of the likelihood values is bit `q` of data symbol `d` (R160). -/
theorem getD_llrValues (s : State) (c : Candidate) {d q : Nat} (hd : d < 58) (hq : q < 3) :
    (llrValues s c).getD (3 * d + q) 0 = BitVec.ofInt 16 (llrBit q (groupPower s c d)) := by
  have hsymbol : (3 * d + q) / 3 = d := by omega
  have hbit : (3 * d + q) % 3 = q := by omega
  have hlt : 3 * d + q < 174 := by omega
  simp [llrValues, hsymbol, hbit, hlt]

/-- Settles O21: the values are the differences of R163, and differences of bytes fit 16 bits. -/
theorem extractGivesTheMaxLogDifferences : Obligations.ExtractGivesTheMaxLogDifferences := by
  intro s idx hidx hin
  rcases exec_extract_cases idx s with ⟨hout, -⟩ | ⟨-, hr, -⟩ | ⟨-, -, e⟩
  · omega
  · exact absurd hin (by rw [hr]; decide)
  · refine ⟨_, e, rfl, ?_, fun d hd q hq => ?_, fun _ => rfl⟩
    · simp [State.completeWith, llrValues]
    · obtain ⟨one, zero, hone, hzero, hllr⟩ := llrBit_eq_sub (groupPower s (s.candidate idx) d) hq
      obtain ⟨hone0, hone255⟩ := isGreatest_groupPower_bounds hone
      obtain ⟨hzero0, hzero255⟩ := isGreatest_groupPower_bounds hzero
      refine ⟨one, zero, hone, hzero, ?_, by omega, by omega⟩
      change ((llrValues s (s.candidate idx)).getD (3 * d + q) 0).toInt = one - zero
      rw [getD_llrValues s _ hd hq, hllr]
      exact BitVec.toInt_ofInt_eq_self (by decide) (by omega) (by omega)

end Sys2Proof.Machine
end

section
/-! The check-to-variable messages of LDPC: a check sends along an edge the smallest magnitude of its other
edges, with the sign of their parity (R181). -/

namespace Sys2Proof.Machine

open Sys2Proof

/-! ### Clamping and parity -/

theorem clamp_eq_max_min {b : Int} (hb : 0 ≤ b) (v : Int) : clamp v (-b) b = max (-b) (min b v) := by
  unfold clamp
  split
  · omega
  · split <;> omega

/-- The XOR of a list's conditions says whether an odd number of them holds. -/
theorem foldl_xor_map_eq_countP {α : Type} (p : α → Bool) (l : List α) (acc : Bool) :
    (l.map p).foldl xor acc = xor acc (decide (l.countP p % 2 = 1)) := by
  induction l generalizing acc with
  | nil => simp
  | cons a l ih =>
    rw [List.map_cons, List.foldl_cons, ih, List.countP_cons]
    cases p a
    · simp
    · have hparity : decide ((l.countP p + 1) % 2 = 1) = !decide (l.countP p % 2 = 1) := by
        rw [← decide_not, decide_eq_decide]
        omega
      rw [if_pos rfl, hparity, Bool.xor_true, Bool.not_xor, Bool.xor_not]

/-! ### The smallest magnitude -/

theorem minMagnitude_isLeast {others : List Int} (h : others ≠ []) :
    IsLeast { x | ∃ q ∈ others, x = |q| } (minMagnitude others) := by
  have hmin : (others.map (|·|)).min? = some (minMagnitude others) := by
    cases others with
    | nil => exact absurd rfl h
    | cons q qs => rw [List.map_cons, List.min?_cons', List.foldl_map, minMagnitude]
  obtain ⟨hmem, hle⟩ := List.min?_eq_some_iff.1 hmin
  obtain ⟨q, hq, he⟩ := List.mem_map.1 hmem
  refine ⟨⟨q, hq, he.symm⟩, ?_⟩
  rintro x ⟨v, hv, rfl⟩
  exact hle _ (List.mem_map_of_mem hv)

theorem minMagnitude_nonneg (others : List Int) : 0 ≤ minMagnitude others := by
  by_cases h : others = []
  · rw [h, minMagnitude]
  · obtain ⟨q, -, he⟩ := (minMagnitude_isLeast h).1
    exact he ▸ abs_nonneg q

theorem minMagnitude_le {others : List Int} {q : Int} (h : q ∈ others) : minMagnitude others ≤ |q| :=
  (minMagnitude_isLeast (List.ne_nil_of_mem h)).2 ⟨q, h, rfl⟩

/-- A common non-negative factor of a list is a factor of its smallest magnitude (R185). -/
theorem minMagnitude_mul {k : Int} (hk : 0 ≤ k) (others : List Int) :
    minMagnitude (others.map (k * ·)) = k * minMagnitude others := by
  by_cases h : others = []
  · simp [h, minMagnitude]
  · have hne : others.map (k * ·) ≠ [] := mt List.map_eq_nil_iff.1 h
    refine (minMagnitude_isLeast hne).unique ⟨?_, ?_⟩
    · obtain ⟨q, hq, he⟩ := (minMagnitude_isLeast h).1
      exact ⟨k * q, List.mem_map_of_mem hq, by rw [he, abs_mul, abs_of_nonneg hk]⟩
    · rintro x ⟨v, hv, rfl⟩
      obtain ⟨q, hq, rfl⟩ := List.mem_map.1 hv
      rw [abs_mul, abs_of_nonneg hk]
      exact mul_le_mul_of_nonneg_left (minMagnitude_le hq) hk

/-! ### The message along one edge -/

/-- The magnitude of a message is the smallest of the others, its sign their parity (R181). -/
theorem checkMessage_eq (others : List Int) :
    checkMessage others = if others.countP (fun q => decide (0 < q)) % 2 = 1 then minMagnitude others
      else -minMagnitude others := by
  simp only [checkMessage, foldl_xor_map_eq_countP, Bool.false_xor, decide_eq_true_eq]

theorem abs_checkMessage (others : List Int) : |checkMessage others| = minMagnitude others := by
  rw [checkMessage_eq]
  split
  · exact abs_of_nonneg (minMagnitude_nonneg others)
  · rw [abs_neg, abs_of_nonneg (minMagnitude_nonneg others)]

/-- A message stays within every bound of the others (R181). -/
theorem abs_checkMessage_le {b : Int} (hb : 0 ≤ b) {others : List Int} (h : ∀ q ∈ others, |q| ≤ b) :
    |checkMessage others| ≤ b := by
  rw [abs_checkMessage]
  cases others with
  | nil => exact hb
  | cons q qs => exact (minMagnitude_le List.mem_cons_self).trans (h q List.mem_cons_self)

/-- A check with one other edge passes that edge's message on (R185). -/
theorem checkMessage_singleton (q : Int) : checkMessage [q] = q := by
  have hmin : minMagnitude [q] = |q| := rfl
  rw [checkMessage_eq, hmin, List.countP_singleton]
  by_cases hq : 0 < q
  · simp [hq, abs_of_pos hq]
  · simp [hq, abs_of_nonpos (not_lt.1 hq)]

/-- A message that is exactly 0 silences the check (R184). -/
theorem checkMessage_eq_zero {others : List Int} (h : (0 : Int) ∈ others) : checkMessage others = 0 := by
  have hle := minMagnitude_le h
  rw [abs_zero] at hle
  rw [← abs_nonpos_iff, abs_checkMessage]
  exact hle

/-- A common non-negative factor of the others is a factor of the message (R185). -/
theorem checkMessage_mul {k : Int} (hk : 0 ≤ k) (others : List Int) :
    checkMessage (others.map (k * ·)) = k * checkMessage others := by
  rcases hk.eq_or_lt with rfl | hpos
  · have habs : |checkMessage (others.map (0 * ·))| = 0 := by
      rw [abs_checkMessage, minMagnitude_mul le_rfl, zero_mul]
    rw [abs_eq_zero.1 habs, zero_mul]
  · have hsigns : (others.map (k * ·)).countP (fun q => decide (0 < q)) =
        others.countP fun q => decide (0 < q) := by
      rw [List.countP_map]
      exact List.countP_congr fun q _ => by simp [hpos]
    rw [checkMessage_eq, checkMessage_eq, minMagnitude_mul hk, hsigns]
    split <;> ring

end Sys2Proof.Machine
end

section
/-! One pass and one iteration of LDPC (R178, R180, R181): what a total and a message are made of, edge by
edge, and how large they can be. -/

namespace Sys2Proof.Machine

open Sys2Proof

/-! ### The totals -/

/-- The entries of a bounded list, with 0 beyond its end, are bounded. -/
theorem abs_getD_le {b : Int} (hb : 0 ≤ b) {l : List Int} (h : ∀ v ∈ l, |v| ≤ b) (i : Nat) :
    |l.getD i 0| ≤ b := by
  by_cases hi : i < l.length
  · rw [List.getD_eq_getElem l 0 hi]
    exact h _ (List.getElem_mem hi)
  · rw [List.getD_eq_default l 0 (not_lt.1 hi), abs_zero]
    exact hb

/-- The message of an edge stands at the place of its column in the row. -/
theorem edgeMessage_eq (cols : List Nat) (msgs : List Int) (i : Nat) :
    edgeMessage cols msgs i = if i ∈ cols then msgs.getD (cols.idxOf i) 0 else 0 := by
  induction cols generalizing msgs with
  | nil => rfl
  | cons c cols ih =>
    cases msgs with
    | nil => simp [edgeMessage]
    | cons r msgs =>
      by_cases hc : c = i
      · simp [edgeMessage, hc]
      · simp [edgeMessage, hc, Ne.symm hc, ih]

@[simp] theorem edgeMessage_nil (cols : List Nat) (i : Nat) : edgeMessage cols [] i = 0 := by
  simp [edgeMessage_eq]

/-- Only the rows with an edge at a column send it a message, and within the bound of the messages. -/
theorem abs_edgeMessage_le {b : Int} (hb : 0 ≤ b) (cols : List Nat) {msgs : List Int}
    (h : ∀ r ∈ msgs, |r| ≤ b) (i : Nat) :
    |edgeMessage cols msgs i| ≤ (if cols.contains i then 1 else 0 : Nat) * b := by
  rw [edgeMessage_eq]
  by_cases hi : i ∈ cols
  · simpa [hi] using abs_getD_le hb h (cols.idxOf i)
  · simp [hi]

@[simp] theorem columnSum_nil (h : List (List Nat)) (i : Nat) : columnSum h [] i = 0 := by
  simp [columnSum]

theorem columnSum_cons (row : List Nat) (h : List (List Nat)) (msgs : List Int) (rm : List (List Int))
    (i : Nat) : columnSum (row :: h) (msgs :: rm) i = edgeMessage row msgs i + columnSum h rm i := by
  simp [columnSum]

/-- The sum of a column, row by row (R178). -/
theorem columnSum_eq (h : List (List Nat)) (rm : List (List Int)) (i : Nat) :
    columnSum h rm i =
      ((List.range h.length).map fun m => edgeMessage (h.getD m []) (rm.getD m []) i).sum := by
  induction h generalizing rm with
  | nil => rfl
  | cons row h ih =>
    cases rm with
    | nil => simp
    | cons msgs rm =>
      rw [columnSum_cons, ih, List.length_cons, List.range_succ_eq_map, List.map_cons, List.sum_cons,
        List.map_map]
      rfl

/-- The sum of a column stays within the bound of the messages times the number of its edges. -/
theorem abs_columnSum_le {b : Int} (hb : 0 ≤ b) (h : List (List Nat)) {rm : List (List Int)}
    (hrm : ∀ msgs ∈ rm, ∀ r ∈ msgs, |r| ≤ b) (i : Nat) :
    |columnSum h rm i| ≤ (h.countP fun row => row.contains i : Nat) * b := by
  induction h generalizing rm with
  | nil => simp [columnSum]
  | cons row h ih =>
    cases rm with
    | nil => rw [columnSum_nil, abs_zero]; positivity
    | cons msgs rm =>
      obtain ⟨hmsgs, hrest⟩ := List.forall_mem_cons.1 hrm
      calc |columnSum (row :: h) (msgs :: rm) i|
          ≤ |edgeMessage row msgs i| + |columnSum h rm i| := by
            rw [columnSum_cons]
            exact abs_add_le _ _
        _ ≤ (if row.contains i then 1 else 0 : Nat) * b
              + (h.countP fun row => row.contains i : Nat) * b :=
            add_le_add (abs_edgeMessage_le hb row hmsgs i) (ih hrest)
        _ = ((row :: h).countP fun row => row.contains i : Nat) * b := by
            rw [List.countP_cons, Nat.cast_add]
            ring

/-- A total is the channel value and the sum of its column (R178). -/
theorem getD_totals (h : List (List Nat)) (rm : List (List Int)) {l : List Int} {i : Nat}
    (hi : i < l.length) : (totals h rm l).getD i 0 = l.getD i 0 + columnSum h rm i := by
  simp [totals, hi]

/-! ### The messages of the next iteration -/

/-- The variable-to-check messages of a row, place by place (R180). -/
theorem rowQ_eq (z : List Int) {row : List Nat} {msgs : List Int} (hlen : msgs.length = row.length) :
    rowQ z row msgs = (List.range row.length).map fun j =>
      clamp (z.getD (row.getD j 0) 0 - msgs.getD j 0) (-sat) sat := by
  refine List.ext_getElem (by simp [rowQ, hlen]) fun j hj hj' => ?_
  have hrow : j < row.length := by simpa using hj'
  simp [rowQ, hrow, hlen]

theorem getD_rowR {qs : List Int} {k : Nat} (hk : k < qs.length) :
    (rowR qs).getD k 0 = checkMessage (qs.eraseIdx k) := by
  simp [rowR, hk]

theorem getD_nextMessages {h : List (List Nat)} (z : List Int) {rm : List (List Int)} {m : Nat}
    (hrow : m < h.length) (hmsgs : m < rm.length) :
    (nextMessages h z rm).getD m [] = rowR (rowQ z (h.getD m []) (rm.getD m [])) := by
  simp [nextMessages, hrow, hmsgs]

theorem eraseIdx_range {n k : Nat} (hk : k < n) :
    (List.range n).eraseIdx k = (List.range n).filter (· ≠ k) := by
  have hidx : (List.range n).idxOf k = k := by
    have h := List.nodup_range.idxOf_getElem k (by simpa using hk)
    rwa [List.getElem_range] at h
  calc (List.range n).eraseIdx k
      = (List.range n).erase k := by rw [← List.eraseIdx_idxOf_eq_erase, hidx]
    _ = (List.range n).filter (· != k) := List.nodup_range.erase_eq_filter k
    _ = (List.range n).filter (· ≠ k) := List.filter_congr fun j _ => by simp [bne, beq_eq_decide]

/-- A message of the next iteration comes from the clamped differences on the other edges of its check
(R180, R181). -/
theorem getD_getD_nextMessages {h : List (List Nat)} {rm : List (List Int)} (z : List Int) {m k : Nat}
    (hrow : m < h.length) (hmsgs : m < rm.length)
    (hlen : (rm.getD m []).length = (h.getD m []).length) (hk : k < (h.getD m []).length) :
    ((nextMessages h z rm).getD m []).getD k 0 =
      checkMessage (((List.range (h.getD m []).length).filter (· ≠ k)).map fun j =>
        clamp (z.getD ((h.getD m []).getD j 0) 0 - (rm.getD m []).getD j 0) (-sat) sat) := by
  rw [getD_nextMessages z hrow hmsgs, rowQ_eq z hlen, getD_rowR (by simpa using hk), List.eraseIdx_map,
    eraseIdx_range hk]

theorem abs_le_sat_of_mem_rowQ {z : List Int} {row : List Nat} {msgs : List Int} {q : Int}
    (h : q ∈ rowQ z row msgs) : |q| ≤ sat := by
  obtain ⟨j, hj, rfl⟩ := List.getElem_of_mem h
  simp only [rowQ, List.getElem_zipWith]
  exact abs_clamp_le (by decide)

/-- The messages of every iteration saturate, whatever the totals (R180, R181). -/
theorem abs_le_sat_of_mem_nextMessages {h : List (List Nat)} {z : List Int} {rm : List (List Int)}
    {msgs : List Int} (hmsgs : msgs ∈ nextMessages h z rm) {r : Int} (hr : r ∈ msgs) : |r| ≤ sat := by
  obtain ⟨m, hm, rfl⟩ := List.getElem_of_mem hmsgs
  simp only [nextMessages, List.getElem_zipWith, rowR] at hr
  obtain ⟨k, -, rfl⟩ := List.mem_map.1 hr
  exact abs_checkMessage_le (by decide) fun q hq => abs_le_sat_of_mem_rowQ (List.mem_of_mem_eraseIdx hq)

/-- Settles O26: a column sums at most one saturated message per edge. -/
theorem ldpcMessagesStayWithinSaturation : Obligations.LdpcMessagesStayWithinSaturation := by
  intro h rm l hl hrm
  refine ⟨fun msgs hmsgs r hr => abs_le_sat_of_mem_nextMessages hmsgs hr, fun i hi => ?_⟩
  calc |(totals h rm l).getD i 0|
      ≤ |l.getD i 0| + |columnSum h rm i| := by
        rw [getD_totals h rm hi]
        exact abs_add_le _ _
    _ ≤ 2047 + (h.countP fun row => row.contains i : Nat) * 2047 :=
        add_le_add (abs_getD_le (by decide) hl i) (abs_columnSum_le (by decide) h hrm i)
    _ = (1 + (h.countP fun row => row.contains i : Nat)) * 2047 := by ring

/-- Settles O27: the sum of a column by rows, the place of an edge in its row, and the rules of a
message along one edge. -/
theorem checkMessageFollowsItsOtherEdges : Obligations.CheckMessageFollowsItsOtherEdges := by
  refine ⟨fun h rm l i hi => ?_, fun h rm z m k hrow hmsgs hlen hk => ?_,
    fun others hne => ⟨_, minMagnitude_isLeast hne, checkMessage_eq others⟩, checkMessage_singleton,
    fun _ => checkMessage_eq_zero, fun k others hk => checkMessage_mul hk others⟩
  · rw [getD_totals h rm hi, columnSum_eq]
    simp only [edgeMessage_eq]
  · rw [getD_getD_nextMessages z hrow hmsgs hlen hk]
    simp only [clamp_eq_max_min (show 0 ≤ sat by decide)]
    rfl

end Sys2Proof.Machine
end

section
/-! The run of LDPC (R175, R177, R179, R183): what the command leaves, which pass its decision is of, and
the run on a channel codeword. -/

namespace Sys2Proof.Machine

open Sys2Proof

/-! ### The command -/

/-- LDPC with `LLR_RDY` set completes with the outcome of its run (R175). -/
theorem exec_ldpc {s : State} (h : s.valid.llrRdy = true) :
    exec .ldpc s = .next ({ s with
      hard := packBits 174 s.ldpcOutcome.bits
      ldpcErrors := BitVec.ofNat 8 s.ldpcOutcome.errors
      ldpcIter := BitVec.ofNat 8 s.ldpcOutcome.iterations
      valid := s.valid.afterLdpc (decide (s.ldpcOutcome.errors = 0)) }.completeWith .ok) := by
  have hexec : exec .ldpc s = (ldpcBody (s.enter .ldpc)).finish := rfl
  rw [hexec]
  rcases ldpcBody_cases (s.enter .ldpc) with ⟨hready, -⟩ | ⟨-, e⟩
  · exact absurd (h.symm.trans hready) (by decide)
  · rw [e]
    rfl

/-! ### The channel values (R177) -/

theorem getD_channelValues (s : State) {i : Nat} (hi : i < 174) :
    s.channelValues.getD i 0 = clamp (s.llrAt i) (-sat) sat := by
  simp [State.channelValues, hi]

theorem eq_channelValues {s : State} {l : List Int} (hlen : l.length = 174)
    (h : ∀ i < 174, l.getD i 0 = max (-2047) (min 2047 (s.llrAt i))) : l = s.channelValues := by
  refine List.ext_getElem (by rw [hlen, length_channelValues]) fun i hi hi' => ?_
  have hi174 : i < 174 := hlen ▸ hi
  rw [← List.getD_eq_getElem l 0 hi, ← List.getD_eq_getElem _ 0 hi', h i hi174,
    getD_channelValues s hi174, clamp_eq_max_min (by decide)]
  rfl

/-! ### The decisions of the passes -/

/-- The totals of the first pass are the channel values (R178, R179). -/
theorem totals_messagesAfter_zero (h : List (List Nat)) (l : List Int) :
    totals h (messagesAfter h l 0) l = l := by
  refine List.ext_getElem (length_totals h _ l) fun i hi hi' => ?_
  have hzero : ∀ msgs ∈ messagesAfter h l 0, ∀ r ∈ msgs, |r| ≤ 0 := by simp
  have hsum := abs_columnSum_le le_rfl h hzero i
  rw [mul_zero, abs_nonpos_iff] at hsum
  rw [← List.getD_eq_getElem _ 0 hi, ← List.getD_eq_getElem _ 0 hi', getD_totals h _ hi', hsum, add_zero]

/-- A pass has errors exactly when some check fails on its decision (R175). -/
theorem exists_failed_check {h : List (List Nat)} {l : List Int} {n : Nat}
    (herr : residualErrors h (hardDecisions (totals h (messagesAfter h l n) l)) ≠ 0) :
    ∃ row ∈ h, (row.map fun i => decisionAfter h l n i).foldl xor false = true := by
  obtain ⟨row, hrow, hfails⟩ := List.countP_pos_iff.1 (Nat.pos_of_ne_zero herr)
  refine ⟨row, hrow, ?_⟩
  simp only [decisionAfter_eq]
  exact hfails

/-- No check fails on a decision exactly when it is a codeword (R176). -/
theorem residualErrors_eq_zero_iff (h : List (List Nat)) {bits : List Bool} (hlen : bits.length = 174) :
    residualErrors h bits = 0 ↔ IsCodeword h (packBits 174 bits) := by
  simp only [residualErrors_eq h hlen, List.countP_eq_zero, Bool.not_eq_true]

/-- The residual errors of a legal matrix fit their 8-bit field (R29). -/
theorem ldpcOutcome_errors_lt {s : State} (hlegal : s.cfg.legal = true) :
    s.ldpcOutcome.errors < 2 ^ 8 := by
  obtain ⟨-, -, -, -, -, -, -, hrows⟩ := Config.bounds_of_legal hlegal
  have hle : s.ldpcOutcome.errors ≤ s.cfg.h.length := by
    rw [(ldpcOutcome_spec s).1]
    exact List.countP_le_length
  omega

/-- Settles O24: the outcome of the run is of the pass after its last iteration, and its counts fit
their 8-bit fields. -/
theorem ldpcReportsTheErrorsOfItsHardDecision : Obligations.LdpcReportsTheErrorsOfItsHardDecision := by
  intro s hlegal hready
  obtain ⟨herr, hlen, hiter, hlast⟩ := ldpcOutcome_spec s
  obtain ⟨hbits, hearlier⟩ := ldpcOutcome_passes s
  have hiterNat : (BitVec.ofNat 8 s.ldpcOutcome.iterations).toNat = s.ldpcOutcome.iterations :=
    toNat_ofNat_of_lt (hiter.trans_lt s.maxIter.isLt)
  have herrNat : (BitVec.ofNat 8 s.ldpcOutcome.errors).toNat = s.ldpcOutcome.errors :=
    toNat_ofNat_of_lt (ldpcOutcome_errors_lt hlegal)
  have herrZero : BitVec.ofNat 8 s.ldpcOutcome.errors = 0 ↔ s.ldpcOutcome.errors = 0 := by
    rw [← BitVec.toNat_inj, herrNat]
    rfl
  refine ⟨_, exec_ldpc hready, ?frame, ?passes, ?errors, ?codeword, ?flag, ?most, ?last, fun _ => rfl⟩
  case frame => simp only [State.completeWith, Valid.afterLdpc, hready]
  case passes =>
    intro l hl hclamp
    obtain rfl := eq_channelValues hl hclamp
    simp only [State.completeWith_hard, State.completeWith_ldpcIter, hiterNat]
    refine ⟨fun i _ => ?_, fun n hn => exists_failed_check (hearlier n hn)⟩
    rw [getMsbD_packBits hlen, decisionAfter_eq, ← hbits]
  case errors =>
    simp only [State.completeWith_hard, State.completeWith_ldpcErrors, herrNat]
    rw [herr, residualErrors_eq _ hlen]
  case codeword => exact herrZero.trans (herr ▸ residualErrors_eq_zero_iff s.cfg.h hlen)
  case flag => exact decide_eq_true_iff.trans herrZero.symm
  case most => exact hiterNat.trans_le hiter
  case last => exact fun hne => BitVec.eq_of_toNat_eq (hiterNat.trans (hlast (mt herrZero.2 hne)))

/-! ### A channel codeword -/

/-- The first decision is the signs of the channel values (R177, R178). -/
theorem getD_hardDecisions_channelValues (s : State) {i : Nat} (hi : i < 174) :
    (hardDecisions s.channelValues).getD i false = decide (0 < s.llrAt i) := by
  simp [hardDecisions, State.channelValues, hi, clamp_pos_iff (show 0 < sat by decide)]

/-- A run whose first decision has no errors ends with it, after 0 iterations (R175). -/
theorem ldpcOutcome_of_no_errors {s : State}
    (h : residualErrors s.cfg.h (hardDecisions s.channelValues) = 0) :
    s.ldpcOutcome.bits = hardDecisions s.channelValues ∧ s.ldpcOutcome.errors = 0 ∧
      s.ldpcOutcome.iterations = 0 := by
  obtain ⟨hbits, hearlier⟩ := ldpcOutcome_passes s
  have herr := (ldpcOutcome_spec s).1
  have hiter : s.ldpcOutcome.iterations = 0 := by
    by_contra hne
    refine hearlier 0 (Nat.pos_of_ne_zero hne) ?_
    rw [totals_messagesAfter_zero, h]
  rw [hiter, totals_messagesAfter_zero] at hbits
  rw [hbits, h] at herr
  exact ⟨hbits, herr, hiter⟩

/-- Settles O25: the first decision is the codeword, so the run ends with it. -/
theorem ldpcStopsAtOnceOnAChannelCodeword : Obligations.LdpcStopsAtOnceOnAChannelCodeword := by
  intro s x hready hcode hsigns
  have hlen : (hardDecisions s.channelValues).length = 174 := by simp
  have hx : packBits 174 (hardDecisions s.channelValues) = x := eq_of_getMsbD fun i hi => by
    rw [getMsbD_packBits hlen, getD_hardDecisions_channelValues s hi, hsigns i hi]
  obtain ⟨hbits, herr, hiter⟩ :=
    ldpcOutcome_of_no_errors ((residualErrors_eq_zero_iff s.cfg.h hlen).2 (hx.symm ▸ hcode))
  refine ⟨_, exec_ldpc hready, ?hard, ?errors, ?iterations, ?flag⟩
  case hard => rw [State.completeWith_hard, hbits, hx]
  case errors => rw [State.completeWith_ldpcErrors, herr]; rfl
  case iterations => rw [State.completeWith_ldpcIter, hiter]; rfl
  case flag => exact decide_eq_true herr

end Sys2Proof.Machine
end

section
/-! CHECK: the packed payload, its two checksums bit by bit (R111, R200 to R203), and the detection of every
single bit flip (R205). -/

namespace Sys2Proof.Machine

open Sys2Proof

/-! ### The command -/

/-- CHECK with `CW_OK` set completes with the packed payload and its two checksums (R200). -/
theorem exec_check {s : State} (h : s.valid.cwOk = true) :
    exec .check s = .next ({ s with
      a91 := packPayload s.hard
      crcRx := embeddedCrc (packPayload s.hard)
      crcCalc := computedCrc (packPayload s.hard)
      crcOk := decide (embeddedCrc (packPayload s.hard) = computedCrc (packPayload s.hard))
      valid := s.valid.afterCheck
        (decide (embeddedCrc (packPayload s.hard) = computedCrc (packPayload s.hard))) }.completeWith
          .ok) := by
  have hexec : exec .check s = (checkBody (s.enter .check)).finish := rfl
  rw [hexec]
  rcases checkBody_cases (s.enter .check) with ⟨hclosed, -⟩ | ⟨-, e⟩
  · exact absurd (h.symm.trans hclosed) (by decide)
  · rw [e]
    rfl

/-! ### The two checksums of a payload -/

/-- The embedded checksum is the bits 77 to 90 of the payload (R111). -/
theorem getMsbD_embeddedCrc (a : BitVec 96) {i : Nat} (hi : i < 14) :
    (embeddedCrc a).getMsbD i = a.getMsbD (77 + i) := by
  have hbit : 5 + (13 - i) = 95 - (77 + i) := by omega
  simp only [embeddedCrc, bitField, BitVec.getMsbD, BitVec.getLsbD_ofNat, Nat.testBit_mod_two_pow,
    Nat.testBit_shiftRight, BitVec.testBit_toNat, Nat.reduceSub, Nat.reduceAdd, hbit]
  simp [hi, show 13 - i < 14 by omega, show 77 + i < 96 by omega]

/-- The computed checksum is over the bits 0 to 76 of the payload and five zero bits (R202). -/
theorem computedCrc_eq (a : BitVec 96) :
    computedCrc a = crc14 ((List.range 82).map fun k => decide (k < 77) && a.getMsbD k) := by
  have hsplit : List.range 82 = List.range 77 ++ (List.range 5).map (77 + ·) := rfl
  have hmessage : ∀ k ∈ List.range 77, a.getMsbD k = (decide (k < 77) && a.getMsbD k) :=
    fun k hk => by simp [List.mem_range.1 hk]
  rw [computedCrc, crcSpan, hsplit, List.map_append, ← List.map_congr_left hmessage]
  rfl

/-- Settles O28: the bits of the packed payload are those of `HARD` (R201). -/
theorem checkPacksAndComparesThePayload : Obligations.CheckPacksAndComparesThePayload := by
  intro s hcw
  refine ⟨_, exec_check hcw, rfl, ?packed, ?tail, ?embedded, ?computed, decide_eq_true_iff, fun _ => rfl⟩
  case packed =>
    intro i hi
    simp [getMsbD_packPayload, hi]
  case tail =>
    intro i hi
    simp [getMsbD_packPayload, Nat.not_lt.2 hi]
  case embedded =>
    intro i hi
    simp [getMsbD_embeddedCrc _ hi, getMsbD_packPayload, show 77 + i < 91 by omega]
  case computed =>
    refine (computedCrc_eq _).trans (congrArg crc14 (List.map_congr_left fun k _ => ?_))
    by_cases hk : k < 77
    · simp [getMsbD_packPayload, hk, show k < 91 by omega]
    · simp [hk]

/-! ### The checksum register is linear (R203) -/

/-- A step shifts the register, and adds the generator when the bit shifted out differs from the input. -/
theorem crcStep_eq (r : BitVec 14) (b : Bool) :
    crcStep r b = (r <<< 1) ^^^ bif r.getLsbD 13 ^^ b then crcPoly else 0 := by
  unfold crcStep
  cases r.getLsbD 13 ^^ b <;> simp

theorem crcStep_xor (r s : BitVec 14) (b c : Bool) :
    crcStep (r ^^^ s) (b ^^ c) = crcStep r b ^^^ crcStep s c := by
  have hmask : ∀ x y : Bool, (bif x ^^ y then crcPoly else 0) =
      (bif x then crcPoly else 0) ^^^ bif y then crcPoly else 0 := by decide
  have hinput : ((r.getLsbD 13 ^^ s.getLsbD 13) ^^ (b ^^ c)) =
      ((r.getLsbD 13 ^^ b) ^^ (s.getLsbD 13 ^^ c)) := by
    simp only [Bool.xor_assoc, Bool.xor_left_comm]
  rw [crcStep_eq, crcStep_eq, crcStep_eq, BitVec.getLsbD_xor, BitVec.shiftLeft_xor_distrib, hinput, hmask]
  ac_rfl

theorem foldl_crcStep_xor {α : Type} (f g : α → Bool) (l : List α) (r s : BitVec 14) :
    (l.map fun k => f k ^^ g k).foldl crcStep (r ^^^ s) =
      (l.map f).foldl crcStep r ^^^ (l.map g).foldl crcStep s := by
  induction l generalizing r s with
  | nil => rfl
  | cons k l ih =>
    simp only [List.map_cons, List.foldl_cons, crcStep_xor]
    exact ih _ _

theorem crc14_xor {α : Type} (f g : α → Bool) (l : List α) :
    crc14 (l.map fun k => f k ^^ g k) = crc14 (l.map f) ^^^ crc14 (l.map g) :=
  foldl_crcStep_xor f g l 0 0

/-! ### The checksum of a lone bit -/

/-- A zero input bit never clears the register: the generator has a constant term, which shows in the bit
that the shift leaves free. -/
theorem crcStep_false_ne_zero {r : BitVec 14} (hr : r ≠ 0) : crcStep r false ≠ 0 := by
  unfold crcStep
  cases htop : r.getLsbD 13
  · have hlt : r.toNat < 2 ^ 13 := by
      rw [← BitVec.msb_eq_getLsbD_last (w := 14) r, BitVec.msb_eq_decide] at htop
      simpa using htop
    intro hzero
    exact hr (by simp at hzero; bv_omega)
  · intro hzero
    have hlow := congrArg (BitVec.getLsbD · 0) hzero
    simp [crcPoly] at hlow

theorem foldl_crcStep_ne_zero {i : Nat} {l : List Nat} (hi : i ∉ l) {r : BitVec 14} (hr : r ≠ 0) :
    (l.map fun k => k == i).foldl crcStep r ≠ 0 := by
  induction l generalizing r with
  | nil => exact hr
  | cons k l ih =>
    obtain ⟨hne, hl⟩ := not_or.1 (mt List.mem_cons.2 hi)
    rw [List.map_cons, List.foldl_cons, beq_false_of_ne (Ne.symm hne)]
    exact ih hl (crcStep_false_ne_zero hr)

/-- The register stays zero up to the lone bit, holds the generator after it, and is never zero again. -/
theorem crc14_lone_ne_zero {i : Nat} {l : List Nat} (hl : l.Nodup) (hi : i ∈ l) :
    crc14 (l.map fun k => k == i) ≠ 0 := by
  induction l with
  | nil => cases hi
  | cons k l ih =>
    obtain ⟨hk, hl⟩ := List.nodup_cons.1 hl
    by_cases he : k = i
    · subst he
      rw [crc14, List.map_cons, List.foldl_cons, beq_self_eq_true]
      exact foldl_crcStep_ne_zero hk (by decide)
    · rw [crc14, List.map_cons, List.foldl_cons, beq_false_of_ne he]
      exact ih hl ((List.mem_cons.1 hi).resolve_left (Ne.symm he))

/-! ### One flipped bit -/

section
variable {a b : BitVec 96} {i : Nat}
  (hflip : ∀ k < 96, b.getMsbD k = if k = i then !a.getMsbD k else a.getMsbD k)
include hflip

/-- A flipped checksum bit changes the embedded checksum and leaves the computed one (R202). -/
theorem crcs_of_checksum_flip (hlo : 77 ≤ i) (hhi : i < 91) :
    embeddedCrc b ≠ embeddedCrc a ∧ computedCrc b = computedCrc a := by
  constructor
  · intro heq
    have hbit : b.getMsbD i = a.getMsbD i := by
      have hi : 77 + (i - 77) = i := by omega
      rw [← hi, ← getMsbD_embeddedCrc b (by omega), ← getMsbD_embeddedCrc a (by omega), heq]
    rw [hflip i (by omega), if_pos rfl] at hbit
    exact Bool.not_ne_self _ hbit
  · rw [computedCrc_eq, computedCrc_eq]
    refine congrArg crc14 (List.map_congr_left fun k hk => ?_)
    rw [hflip k (by have := List.mem_range.1 hk; omega)]
    by_cases hmsg : k < 77
    · rw [if_neg (by omega)]
    · simp [hmsg]

/-- A flipped message bit leaves the embedded checksum, and adds the checksum of the lone bit to the
computed one (R202, R203). -/
theorem crcs_of_message_flip (hi : i < 77) :
    embeddedCrc b = embeddedCrc a ∧
      computedCrc b = computedCrc a ^^^ crc14 ((List.range 82).map fun k => k == i) := by
  constructor
  · refine eq_of_getMsbD fun k hk => ?_
    rw [getMsbD_embeddedCrc b hk, getMsbD_embeddedCrc a hk, hflip _ (by omega), if_neg (by omega)]
  · rw [computedCrc_eq, computedCrc_eq, ← crc14_xor]
    refine congrArg crc14 (List.map_congr_left fun k hk => ?_)
    rw [hflip k (by have := List.mem_range.1 hk; omega)]
    by_cases he : k = i
    · simp [he, hi]
    · simp [he, beq_false_of_ne he]

end

/-- Settles O29: only one of the two checksums changes, so they differ after the flip. -/
theorem checkDetectsEverySingleBitFlip : Obligations.CheckDetectsEverySingleBitFlip := by
  intro a b i hi hmatch hflip
  rcases Nat.lt_or_ge i 77 with hmsg | hcrc
  · obtain ⟨hrx, hcalc⟩ := crcs_of_message_flip hflip hmsg
    have hlone : crc14 ((List.range 82).map fun k => k == i) ≠ 0 :=
      crc14_lone_ne_zero List.nodup_range (List.mem_range.2 (by omega))
    refine ⟨fun heq => hlone ?_, fun hge => absurd hmsg (Nat.not_lt.2 hge), fun _ => ⟨hrx, hcalc, hlone⟩⟩
    rw [hrx, hcalc, hmatch] at heq
    exact (BitVec.xor_right_inj _).1 (heq.symm.trans BitVec.xor_zero.symm)
  · obtain ⟨hrx, hcalc⟩ := crcs_of_checksum_flip hflip hcrc hi
    refine ⟨fun heq => hrx ?_, fun _ => ⟨hrx, hcalc⟩, fun hlt => absurd hlt (Nat.not_lt.2 hcrc)⟩
    rw [heq, hcalc, hmatch]

end Sys2Proof.Machine
end

section
/-! The acceptance invariant (R204, R311, R362) is kept by every step in which the host does not write
`VALID`, `HARD` or `A91`. -/

namespace Sys2Proof.Machine

open Sys2Proof

/-! ### The bodies of the commands -/

theorem State.Accepted.enter {s : State} (h : s.Accepted) (ph : Phase) : (s.enter ph).Accepted :=
  { h with }

theorem State.Accepted.enterAt {s : State} (h : s.Accepted) (ph : Phase) (k : Nat) :
    (s.enterAt ph k).Accepted :=
  { h with }

theorem State.Accepted.completeWith {s : State} (h : s.Accepted) (e : ErrCode) :
    (s.completeWith e).Accepted :=
  { h with }

theorem State.Accepted.setDisp {s : State} (h : s.Accepted) (i : Nat) (d : Disposition) :
    (s.setDisp i d).Accepted :=
  { h with }

theorem State.Accepted.lookupResult {s : State} (h : s.Accepted) (found : Option Slot) :
    (lookupResult found s).Accepted := by
  cases found <;> exact { h with }

theorem State.Accepted.clrresBody {s : State} (h : s.Accepted) : (clrresBody s).out.Accepted :=
  { h with records := fun _ hr => nomatch hr }

/-- SYNC clears every flag (R140). -/
theorem State.Accepted.syncBody {s : State} (h : s.Accepted) : (syncBody s).out.Accepted :=
  { h with
    codeword := fun hf => nomatch hf
    payload := fun hf => nomatch hf
    message := fun hf => nomatch hf }

/-- EXTRACT leaves only `LLR_RDY` set (R160), for which the invariant asks nothing. -/
theorem State.Accepted.extractBody {s : State} (h : s.Accepted) (idx : Nat) :
    (extractBody idx s).out.Accepted := by
  rcases extractBody_cases idx s with ⟨-, e⟩ | ⟨-, -, e⟩ | ⟨-, -, e⟩ <;> rw [e]
  · exact h
  · exact h
  · exact { h with
      codeword := fun hf => nomatch hf
      payload := fun hf => nomatch hf
      message := fun hf => nomatch hf }

/-- LDPC sets `CW_OK` only if no check fails on `HARD` (R175, R183), and clears the flags that stand for
the payload of the old `HARD`. -/
theorem State.Accepted.ldpcBody {s : State} (h : s.Accepted) : (ldpcBody s).out.Accepted := by
  obtain ⟨herr, hlen, -, -⟩ := ldpcOutcome_spec s
  rcases ldpcBody_cases s with ⟨-, e⟩ | ⟨-, e⟩ <;> rw [e]
  · exact h
  · exact { h with
      codeword := fun hclean =>
        (residualErrors_eq_zero_iff s.cfg.h hlen).1 (herr ▸ of_decide_eq_true hclean)
      payload := fun hf => nomatch hf
      message := fun hf => nomatch hf }

/-- CHECK packs the codeword that `CW_OK` stands for, and sets `PAY_OK` only if the checksums match
(R200 to R202). -/
theorem State.Accepted.checkBody {s : State} (h : s.Accepted) : (checkBody s).out.Accepted := by
  rcases checkBody_cases s with ⟨-, e⟩ | ⟨hcw, e⟩ <;> rw [e]
  · exact h
  · exact { h with
      payload := fun hmatch => ⟨of_decide_eq_true hmatch, s.hard, h.codeword hcw, rfl⟩
      message := fun hf => nomatch hf }

/-- UNPACK sets `MSG_OK` only with the message of the payload that `PAY_OK` stands for (R215). -/
theorem State.Accepted.unpackBody {s : State} (h : s.Accepted) : (unpackBody s).out.Accepted := by
  rcases unpackBody_cases s with ⟨-, e⟩ | ⟨-, _, -, e⟩ | ⟨hpay, m, hm, e⟩ <;> rw [e]
  · exact h
  · exact { h with message := fun hf => nomatch hf }
  · exact { h with message := fun _ => ⟨hpay, s.ht, hm⟩ }

/-- STORE needs `MSG_OK`, so the record it makes of `A91` and `MSG` is accepted (R290, R294). -/
theorem State.Accepted.storeBody {s : State} (h : s.Accepted) : (storeBody s).out.Accepted := by
  rcases storeBody_cases s with ⟨-, e⟩ | ⟨-, -, e⟩ | ⟨-, -, -, e⟩ | ⟨hmsg, -, -, e⟩ <;> rw [e]
  · exact h
  · exact h.setDisp _ _
  · exact h.setDisp _ _
  · obtain ⟨hpay, hunpacked⟩ := h.message hmsg
    have hstored : ({ s with res := s.res ++ [recordOf s s.curCand] } : State).Accepted :=
      { h with
        records := by
          intro r hr
          rcases List.mem_append.1 hr with hr | hr
          · exact h.records r hr
          · rw [List.mem_singleton.1 hr]
            exact ⟨h.payload hpay, hunpacked⟩ }
    exact hstored.setDisp _ _

/-- HTADD writes the hash table, of which the invariant asks only that there was one (R204). -/
theorem State.Accepted.htaddBody {s : State} (h : s.Accepted) : (htaddBody s).out.Accepted := by
  rcases htaddBody_cases s with ⟨-, e⟩ | ⟨-, -, e⟩ | ⟨-, -, -, e⟩ | ⟨-, -, -, e⟩ <;> rw [e] <;>
    exact { h with }

theorem State.Accepted.commandBody {s : State} (h : s.Accepted) (i : Instr) :
    (commandBody i s).out.Accepted :=
  commandBody_keeps (N := 127) (fun ph _ ht => ht.enter ph) (fun t _ => Nat.le_of_lt_succ t.candCount.isLt)
    (fun ph k _ _ ht => ht.enterAt ph k) (fun _ ht => ht.clrresBody) (fun _ ht => ht.syncBody)
    (fun d _ ht => ht.setDisp _ d) (fun idx _ ht => ht.extractBody idx) (fun _ ht => ht.ldpcBody)
    (fun _ ht => ht.checkBody) (fun _ ht => ht.unpackBody) (fun _ ht => ht.storeBody)
    (fun _ ht => ht.htaddBody) (fun _ _ ht => ht.lookupResult _) (fun _ _ ht => ht.lookupResult _) i h

theorem engineTurn_accepted {s t : State} (h : s.Accepted) (ht : engineTurn s = .next t) : t.Accepted := by
  rcases engineTurn_cases ht with ⟨-, rfl⟩ | ⟨-, _, i, -, -, he⟩ | ⟨-, _, _, -, -, rfl⟩
  · exact h
  · rw [exec_eq, Host.Outcome.next.injEq] at he
    rw [← he]
    exact (h.commandBody i).completeWith _
  · exact h.completeWith _

/-! ### The host port -/

/-- The addresses of `VALID`, `A91` and `HARD` (R362). -/
theorem tampers_write_eq_false_iff (a : BitVec 25) (v : Word) : (Event.write a v).tampers = false ↔
    a.toNat ≠ 0x030 ∧ ¬ (0x090 ≤ a.toNat ∧ a.toNat < 0x0B8) := by
  simp [Event.tampers]

theorem State.Accepted.accept {s : State} (h : s.Accepted) (w : Word) : (s.accept w).Accepted := by
  rw [accept_eq]
  exact { h with }

/-- Of the writable locations only `VALID`, `A91` and `HARD` hold what the invariant speaks of. -/
theorem State.Accepted.writeLocation {s : State} (h : s.Accepted) (v : Word) (l : Location)
    (hl : l.inBuffer s.cfg) (hvalid : l.addr ≠ 0x030) (hbits : ¬ (0x090 ≤ l.addr ∧ l.addr < 0x0B8)) :
    (writeLocation v s l).Accepted := by
  cases l with
  | cmd => exact h.accept v
  | valid => exact absurd rfl hvalid
  | a91 w | hard w =>
    simp only [Location.inBuffer, Location.addr] at hl hbits
    omega
  | _ => exact { h with }

theorem State.Accepted.hostRead {s : State} (h : s.Accepted) (a : Nat) : (hostRead a s).Accepted := by
  rcases hostRead_cases a s with ⟨-, e⟩ | ⟨-, _, -, -, e⟩ | ⟨-, -, e⟩ <;> rw [e] <;> exact { h with }

theorem State.Accepted.hostWrite {s : State} (h : s.Accepted) {a : Nat} (v : Word) (hvalid : a ≠ 0x030)
    (hbits : ¬ (0x090 ≤ a ∧ a < 0x0B8)) : (hostWrite a v s).Accepted := by
  rcases hostWrite_cases a v s with ⟨-, e⟩ | ⟨-, l, htarget, -, e⟩ | ⟨-, -, e⟩ <;> rw [e]
  · exact h
  · obtain ⟨haligned, hlocate, -⟩ := writeTarget_eq_some.1 htarget
    obtain ⟨rfl, hl⟩ := locate_addr haligned hlocate
    exact h.writeLocation v l hl hvalid hbits
  · exact { h with }

/-! ### One step -/

/-- A release of the reset input clears every flag and empties the result store (R351). -/
theorem State.Accepted.releaseReset {s : State} (h : s.Accepted) : (releaseReset s).Accepted := by
  unfold Machine.releaseReset
  split
  · exact {
      codeword := fun hf => nomatch hf
      payload := fun hf => nomatch hf
      message := fun hf => nomatch hf
      records := fun _ hr => nomatch hr }
  · exact h

/-- Settles O13: the next event is a turn of the engine, a host access or a change of the reset input,
and only a host write can break the invariant. -/
theorem everyUntamperedStepKeepsAcceptance : Obligations.EveryUntamperedStepKeepsAcceptance := by
  intro s t h huntampered hstep
  have hrest : ∀ rest, ({ s with inputs := rest } : State).Accepted := fun rest => { h with }
  rcases step_cases hstep with ⟨-, ht⟩ | ⟨e, rest, hinputs, hevent⟩
  · exact engineTurn_accepted h ht
  · have hsafe : e.tampers = false := huntampered e (by rw [hinputs]; rfl)
    rcases hevent with ⟨a, -, rfl⟩ | ⟨a, v, rfl, rfl⟩ | ⟨-, ht⟩ | ⟨-, rfl⟩ | ⟨-, rfl⟩
    · exact (hrest rest).hostRead _
    · obtain ⟨hvalid, hbits⟩ := (tampers_write_eq_false_iff a v).1 hsafe
      exact (hrest rest).hostWrite v hvalid hbits
    · exact engineTurn_accepted (hrest rest) ht
    · exact { h with }
    · exact (hrest rest).releaseReset

end Sys2Proof.Machine
end

section
/-! UNPACK: the reasons of each format's failures (R216, R217), the message of free text and of telemetry
(R218, R219), a standard callsign by its digits (R226), and the nonstandard message (R230). -/

namespace Sys2Proof.Machine

open Sys2Proof

/-! ### The reasons of failure -/

/-- Free text fails only beyond its greatest value (R218). -/
theorem unpackFree_error {m : BitVec 77} {e : UFail} (h : unpackFree m = .error e) : e = .text := by
  unfold unpackFree at h
  dsimp only at h
  split at h
  · exact (Except.error.inj h).symm
  · cases h

/-- A callsign field fails only on a reserved token (R221). -/
theorem call28_error {ht : List Slot} {n : Nat} {ip : Bool} {i3 : Nat} {e : UFail}
    (h : call28 ht n ip i3 = .error e) : e = .token := by
  rcases call28_cases ht n ip i3 with
    ⟨-, hc⟩ | ⟨-, -, hc⟩ | ⟨-, -, hc⟩ | ⟨-, -, hc⟩ | ⟨-, -, hc⟩ | ⟨-, hc⟩ <;> rw [hc] at h <;> cases h
  rfl

/-- A third field fails only outside its ranges (R227). -/
theorem third_error {g : Nat} {ir : Bool} {e : UFail} (h : third g ir = .error e) : e = .report := by
  rcases third_cases g ir with
    ⟨-, hc⟩ | ⟨-, hc⟩ | ⟨-, hc⟩ | ⟨-, hc⟩ | ⟨-, hc⟩ | ⟨-, hc⟩ | ⟨-, -, hc⟩ <;> rw [hc] at h <;> cases h
  rfl

/-- A standard message fails for a reason of one of its sub-fields (R220). -/
theorem unpackStd_error {ht : List Slot} {m : BitVec 77} {i3 : Nat} {e : UFail}
    (h : unpackStd ht m i3 = .error e) : e = .token ∨ e = .report := by
  unfold unpackStd at h
  split at h
  next hfirst =>
    rw [Except.error.inj h] at hfirst
    exact .inl (call28_error hfirst)
  next =>
    split at h
    next hsecond =>
      rw [Except.error.inj h] at hsecond
      exact .inl (call28_error hsecond)
    next =>
      split at h
      next hlast =>
        rw [Except.error.inj h] at hlast
        exact .inr (third_error hlast)
      next => cases h

/-- A nonstandard message fails only for its callsign (R230). -/
theorem unpackNonstd_error {ht : List Slot} {m : BitVec 77} {e : UFail}
    (h : unpackNonstd ht m = .error e) : e = .call ∨ e = .empty := by
  unfold unpackNonstd at h
  dsimp only at h
  split at h
  · exact .inl (Except.error.inj h).symm
  · split at h
    · exact .inr (Except.error.inj h).symm
    · split at h <;> cases h

/-- The tags that name no format (R217). -/
abbrev UnnamedFormat (m : BitVec 77) : Prop :=
  (tagI3 m = 0 ∧ tagN3 m ∉ [0, 5]) ∨ tagI3 m ∈ [3, 5, 6, 7]

/-- A message fails because its tags name no format, or for a reason of its format (R216, R217). -/
theorem unpackMessage_error {ht : List Slot} {m : BitVec 77} {e : UFail}
    (h : unpackMessage ht m = .error e) :
    (UnnamedFormat m ∧ e = .tag) ∨ e ∈ [.token, .report, .text, .call, .empty] := by
  rcases unpackMessage_cases ht m with ⟨-, -, hc⟩ | ⟨-, -, hc⟩ | ⟨-, hc⟩ | ⟨-, hc⟩ | ⟨htag, hc⟩ <;>
    rw [hc] at h
  · simp [unpackFree_error h]
  · cases h
  · rcases unpackStd_error h with rfl | rfl <;> simp
  · rcases unpackNonstd_error h with rfl | rfl <;> simp
  · have hlt : tagI3 m < 8 := bitField_lt m 74 76
    refine .inl ⟨?_, (Except.error.inj h).symm⟩
    simp only [UnnamedFormat, List.mem_cons, List.not_mem_nil, or_false]
    omega

/-- A message that fails names its reason (R216). -/
theorem unpackMessage_error_ne_none {ht : List Slot} {m : BitVec 77} {e : UFail}
    (h : unpackMessage ht m = .error e) : e ≠ .none := by
  rcases unpackMessage_error h with ⟨-, rfl⟩ | hreason
  · decide
  · rintro rfl
    simp at hreason

/-- The tags that name no format fail (R217). -/
theorem unpackMessage_of_unnamed (ht : List Slot) {m : BitVec 77} (h : UnnamedFormat m) :
    unpackMessage ht m = .error .tag := by
  simp only [UnnamedFormat, List.mem_cons, List.not_mem_nil, or_false] at h
  rcases unpackMessage_cases ht m with ⟨h0, hn, -⟩ | ⟨h0, hn, -⟩ | ⟨hi, -⟩ | ⟨hi, -⟩ | ⟨-, e⟩
  · omega
  · omega
  · omega
  · omega
  · exact e

/-- Settles O31: no format fails with `UF_TAG` on its own account. -/
theorem unpackFailsWithTagExactlyOnUnnamedFormats :
    Obligations.UnpackFailsWithTagExactlyOnUnnamedFormats := by
  refine fun ht m => ⟨fun h => ?_, unpackMessage_of_unnamed ht⟩
  rcases unpackMessage_error h with ⟨hunnamed, -⟩ | hreason
  · exact hunnamed
  · simp at hreason

/-! ### The command -/

/-- The bits of a field are those of the bit string it is cut from (R10). -/
theorem getMsbD_ofNat_bitField {n w : Nat} (x : BitVec n) {a b k : Nat} (hw : b + 1 = a + w) (hb : b < n)
    (hk : k < w) : (BitVec.ofNat w (bitField x a b)).getMsbD k = x.getMsbD (a + k) := by
  have hbit : n - 1 - b + (w - 1 - k) = n - 1 - (a + k) := by omega
  simp only [bitField, BitVec.getMsbD, BitVec.getLsbD_ofNat, Nat.testBit_mod_two_pow,
    Nat.testBit_shiftRight, BitVec.testBit_toNat, hbit]
  simp [hk, show w - 1 - k < w by omega, show w - 1 - k < b - a + 1 by omega, show a + k < n by omega]

/-- The message is the first 77 bits of the payload (R111). -/
theorem getMsbD_message77 (a : BitVec 96) {k : Nat} (hk : k < 77) :
    (message77 a).getMsbD k = a.getMsbD k := by
  have hbit : 19 + (76 - k) = 95 - k := by omega
  simp [message77, BitVec.getMsbD, hk, hbit, show 76 - k < 77 by omega, show k < 96 by omega]

/-- The recorded tags are bits 74 to 76 and 71 to 73 of the payload (R112, R215). -/
theorem getMsbD_tags (a : BitVec 96) {k : Nat} (hk : k < 3) :
    (BitVec.ofNat 3 (tagI3 (message77 a))).getMsbD k = a.getMsbD (74 + k) ∧
      (BitVec.ofNat 3 (tagN3 (message77 a))).getMsbD k = a.getMsbD (71 + k) := by
  constructor
  · rw [tagI3, getMsbD_ofNat_bitField (w := 3) _ rfl (by decide) hk, getMsbD_message77 a (by omega)]
  · rw [tagN3, getMsbD_ofNat_bitField (w := 3) _ rfl (by decide) hk, getMsbD_message77 a (by omega)]

/-- Settles O30: the body ends with the reason or with the message, and the command completes. -/
theorem unpackWritesTheMessageOrTheReason : Obligations.UnpackWritesTheMessageOrTheReason := by
  intro s hpay
  rcases unpackBody_cases (s.enter .unpack) with ⟨hclosed, -⟩ | ⟨-, e, hu, hbody⟩ | ⟨-, m, hu, hbody⟩
  · exact absurd (hpay.symm.trans hclosed) (by decide)
  · have hu : unpackMessage s.ht (message77 s.a91) = .error e := hu
    refine ⟨_, congrArg BodyResult.finish hbody, rfl, fun k hk => getMsbD_tags s.a91 hk, ?_, fun _ => rfl⟩
    rw [hu]
    exact ⟨rfl, rfl, unpackMessage_error_ne_none hu, rfl⟩
  · have hu : unpackMessage s.ht (message77 s.a91) = .ok m := hu
    refine ⟨_, congrArg BodyResult.finish hbody, rfl, fun k hk => getMsbD_tags s.a91 hk, ?_, fun _ => rfl⟩
    rw [hu]
    exact ⟨rfl, rfl, rfl⟩

/-! ### Free text and telemetry -/

/-- Free text up to its greatest value (R218). -/
theorem unpackFree_of_lt {m : BitVec 77} (h : bitField m 0 70 < 42 ^ 13) :
    unpackFree m = .ok (plainMsg (trim (tableText table42 13 (bitField m 0 70))) .free) :=
  if_neg (Nat.not_le.2 h)

/-- Digit `p` of a number, counted from the most significant one. -/
theorem getD_digits (base : Nat) {count p : Nat} (v : Nat) (hp : p < count) :
    (digits base count v).getD p 0 = v / base ^ (count - 1 - p) % base := by
  induction count generalizing v with
  | zero => omega
  | succ k ih =>
    rw [digits]
    rcases Nat.lt_succ_iff_lt_or_eq.1 hp with hlt | rfl
    · rw [List.getD_append _ _ _ _ (by rwa [length_digits]), ih (v / base) hlt, Nat.div_div_eq_div_mul,
        ← pow_succ', show k - 1 - p + 1 = k + 1 - 1 - p by omega]
    · rw [List.getD_append_right _ _ _ _ (length_digits ..).le, length_digits]
      simp

/-- A hexadecimal digit is its upper-case character (R219). -/
theorem hexDigit_eq_getD {d : Nat} (hd : d < 16) :
    hexDigit d = (ascii ['0', '1', '2', '3', '4', '5', '6', '7', '8', '9', 'A', 'B', 'C', 'D', 'E',
      'F']).getD d 0 := by
  interval_cases d <;> rfl

/-- The base-16 digit at a place is the nibble there. -/
theorem div_pow_mod_sixteen (v k : Nat) : v / 16 ^ k % 16 = v >>> (4 * k) &&& 0xF := by
  rw [Nat.shiftRight_eq_div_pow, pow_mul, show (0xF : Nat) = 2 ^ 4 - 1 from rfl,
    Nat.and_two_pow_sub_one_eq_mod]
  rfl

/-- Settles O32: the digits of the field are the given ones, and telemetry's are its nibbles. -/
theorem freeTextAndTelemetryAreTheirDigits : Obligations.FreeTextAndTelemetryAreTheirDigits := by
  intro ht m hi3
  have hfree (hn3 : bitField m 71 73 = 0) : unpackMessage ht m = unpackFree m := if_pos ⟨hi3, hn3⟩
  refine ⟨fun hn3 ds hlen hds hv => ?digits, fun hn3 hlarge => (hfree hn3).trans (if_pos hlarge),
    fun hn3 => ⟨(digits 16 18 (bitField m 0 70)).map hexDigit, ?length, ?telemetry, fun p hp => ?nibble⟩⟩
  case digits =>
    have hlt : bitField m 0 70 < 42 ^ 13 := hv ▸ hlen ▸ foldl_digits_lt ds hds
    have htext : tableText table42 13 (bitField m 0 70) = ds.map (tableAt table42) :=
      hv ▸ hlen ▸ tableText_foldl table42 ds hds
    rw [hfree hn3, unpackFree_of_lt hlt, htext]
    rfl
  case length => rw [List.length_map, length_digits]
  case telemetry =>
    have hnot : ¬ (tagI3 m = 0 ∧ tagN3 m = 0) := fun h => absurd (hn3.symm.trans h.2) (by decide)
    rw [unpackMessage, dispatchMessage, if_neg hnot, if_pos ⟨hi3, hn3⟩]
    rfl
  case nibble =>
    have hdigit := getD_digits 16 (bitField m 0 70) hp
    have hp' : p < (digits 16 18 (bitField m 0 70)).length := by rwa [length_digits]
    rw [List.getD_eq_getElem _ _ hp'] at hdigit
    rw [List.getD_eq_getElem _ _ (by rwa [List.length_map]), List.getElem_map, hdigit,
      hexDigit_eq_getD (Nat.mod_lt _ (by decide)), div_pow_mod_sixteen]

/-! ### The standard callsign -/

/-- The six characters of a standard callsign by its mixed-radix digits (R226). -/
theorem stdChars_digits {c0 c1 c2 c3 c4 c5 : Nat} (h1 : c1 < 36) (h2 : c2 < 10) (h3 : c3 < 27)
    (h4 : c4 < 27) (h5 : c5 < 27) :
    stdChars (((((c0 * 36 + c1) * 10 + c2) * 27 + c3) * 27 + c4) * 27 + c5) =
      [tableAt table37 c0, tableAt table36 c1, tableAt table10 c2, tableAt table27 c3,
        tableAt table27 c4, tableAt table27 c5] := by
  have hsplit (q : Nat) {b r : Nat} (hr : r < b) : (q * b + r) / b = q ∧ (q * b + r) % b = r := by
    rw [mul_comm, Nat.mul_add_div (by omega), Nat.div_eq_of_lt hr, Nat.mul_add_mod, Nat.mod_eq_of_lt hr]
    exact ⟨rfl, rfl⟩
  simp only [stdChars, ← Nat.div_div_eq_div_mul, hsplit _ h1, hsplit _ h2, hsplit _ h3, hsplit _ h4,
    hsplit _ h5]

/-- Settles O33: the divisions of `stdCall` undo the mixed-radix sum. -/
theorem standardCallsignIsItsMixedRadixDigits : Obligations.StandardCallsignIsItsMixedRadixDigits := by
  intro c0 c1 c2 c3 c4 c5 ip h0 h1 h2 h3 h4 h5
  dsimp only
  refine ⟨by omega, ?_, ?_⟩ <;> rw [stdCall, stdChars_digits h1 h2 h3 h4 h5] <;> cases ip <;> simp

/-! ### The nonstandard message -/

/-- The tag of the nonstandard message names its format (R217). -/
theorem unpackMessage_of_nonstd (ht : List Slot) {m : BitVec 77} (h : tagI3 m = 4) :
    unpackMessage ht m = unpackNonstd ht m := by
  simp [unpackMessage, dispatchMessage, h]

/-- Only the digit 0 of a nonstandard callsign is a space (R118). -/
theorem tableAt_table38_ne_space {d : Nat} (hd : d < 38) (h0 : d ≠ 0) :
    tableAt table38 d ≠ spaceByte := by
  interval_cases d
  · exact absurd rfl h0
  all_goals decide

/-- A number with no digit other than 0 is 0. -/
theorem foldl_digits_eq_zero {base : Nat} {ds : List Nat} (h : ∀ d ∈ ds, d = 0) :
    ds.foldl (fun n d => base * n + d) 0 = 0 := by
  induction ds with
  | nil => rfl
  | cons d ds ih =>
    rw [List.foldl_cons, h d List.mem_cons_self]
    exact ih fun x hx => h x (List.mem_cons_of_mem _ hx)

/-- The callsign of a number other than 0 is not empty (R230). -/
theorem trim_table38_ne_nil {ds : List Nat} (hds : ∀ d ∈ ds, d < 38)
    (hv : ds.foldl (fun n d => 38 * n + d) 0 ≠ 0) : trim (ds.map (tableAt table38)) ≠ [] := by
  have hnonzero : ∃ d ∈ ds, d ≠ 0 := by
    by_contra hall
    push Not at hall
    exact hv (foldl_digits_eq_zero hall)
  obtain ⟨d, hd, h0⟩ := hnonzero
  exact trim_ne_nil (List.mem_map_of_mem hd) (tableAt_table38_ne_space (hds d hd) h0)

/-- The 12-bit hash is looked up among the top 12 bits of the keys (R279). -/
theorem htFind12_ofNat (ht : List Slot) {h : Nat} (hlt : h < 2 ^ 12) :
    htFind12 ht (BitVec.ofNat 12 h) = ht.find? fun e => decide (e.key.toNat / 2 ^ 10 = h) := by
  have hmatch (e : Slot) : (e.key.extractLsb' 10 12 == BitVec.ofNat 12 h) =
      decide (e.key.toNat / 2 ^ 10 = h) := by
    have hkey : e.key.toNat / 2 ^ 10 < 2 ^ 12 := by have := e.key.isLt; omega
    rw [Bool.beq_eq_decide_eq]
    refine decide_eq_decide.2 ?_
    rw [← BitVec.toNat_inj, BitVec.extractLsb'_toNat, BitVec.toNat_ofNat, Nat.shiftRight_eq_div_pow,
      Nat.mod_eq_of_lt hkey, Nat.mod_eq_of_lt hlt]
  simp only [htFind12, hmatch]

section
variable (ht : List Slot) {m : BitVec 77} {call : Text}

/-- A CQ from a nonstandard callsign (R230). -/
theorem unpackNonstd_of_cq (hlt : bitField m 12 69 < 38 ^ 11)
    (hcall : trim (tableText table38 11 (bitField m 12 69)) = call) (hne : call ≠ [])
    (hcq : m.getMsbD 73 = true) :
    unpackNonstd ht m = .ok { Msg.zero with f1 := ascii ['C', 'Q'], f2 := call, kind := .cq } := by
  rw [unpackNonstd, hcall, if_neg (Nat.not_le.2 hlt), if_neg (mt List.length_eq_zero_iff.1 hne), if_pos hcq]

/-- A message between a nonstandard callsign and a hashed one (R230). -/
theorem unpackNonstd_of_hash (hlt : bitField m 12 69 < 38 ^ 11)
    (hcall : trim (tableText table38 11 (bitField m 12 69)) = call) (hne : call ≠ [])
    (hcq : m.getMsbD 73 = false) :
    unpackNonstd ht m =
      let hashed := hashText (ht.find? fun e => decide (e.key.toNat / 2 ^ 10 = bitField m 0 11))
      .ok { Msg.zero with
        f1 := if m.getMsbD 70 then call else hashed.1
        f2 := if m.getMsbD 70 then hashed.1 else call
        f3 := (nonstdEnd (bitField m 71 72)).1
        kind := classify (nonstdEnd (bitField m 71 72)).2 hashed.2 false
        hashMiss := hashed.2 } := by
  rw [unpackNonstd, hcall, if_neg (Nat.not_le.2 hlt), if_neg (mt List.length_eq_zero_iff.1 hne),
    if_neg (by simp [hcq]), htFind12_ofNat ht (bitField_lt m 0 11)]

end

/-- The text and the kind of an end code (R230). -/
theorem nonstdEnd_eq (nrpt : Nat) :
    (nonstdEnd nrpt).1 = (match nrpt with
      | 0 => []
      | 1 => ascii ['R', 'R', 'R']
      | 2 => ascii ['R', 'R', '7', '3']
      | _ => ascii ['7', '3']) ∧
    (nonstdEnd nrpt).2 = (match nrpt with
      | 0 => .blank
      | 1 => .rrr
      | 2 => .rr73
      | _ => .k73) := by
  rcases nrpt with _ | _ | _ | n <;> exact ⟨rfl, rfl⟩

/-- Settles O34: the callsign is the digits of `n58`, and not empty unless they are all 0. -/
theorem nonstandardMessageFollowsItsFields : Obligations.NonstandardMessageFollowsItsFields := by
  intro ht m hi3
  rw [unpackMessage_of_nonstd ht hi3]
  refine ⟨fun hlarge => if_pos hlarge, fun hzero => ?empty, fun ds hlen hds hv hnonzero => ?_⟩
  case empty =>
    rw [unpackNonstd, hzero]
    rfl
  have hlt : bitField m 12 69 < 38 ^ 11 := hv ▸ hlen ▸ foldl_digits_lt ds hds
  have hcall : trim (tableText table38 11 (bitField m 12 69)) = trim (ds.map (tableAt table38)) :=
    congrArg trim (hv ▸ hlen ▸ tableText_foldl table38 ds hds)
  have hne : trim (ds.map (tableAt table38)) ≠ [] := trim_table38_ne_nil hds (hv ▸ hnonzero)
  obtain ⟨hend, hkind⟩ := nonstdEnd_eq (bitField m 71 72)
  refine ⟨unpackNonstd_of_cq ht hlt hcall hne, fun hcq =>
    ⟨_, unpackNonstd_of_hash ht hlt hcall hne hcq, rfl, rfl, hend, ?kind, ?call, ?hashed⟩⟩
  case kind => exact congrArg (classify · (hashText _).2 false) hkind
  case call => cases m.getMsbD 70 <;> rfl
  case hashed =>
    cases ht.find? fun e => decide (e.key.toNat / 2 ^ 10 = bitField m 0 11) <;>
      cases m.getMsbD 70 <;> exact ⟨rfl, rfl⟩

end Sys2Proof.Machine
end

section
/-! HTADD case by case, the two lookups, and the round trip between them (45_hashtable.md). -/

namespace Sys2Proof.Machine

open Sys2Proof

/-! ### The key of a text (R272) -/

/-- A base-`b` accumulation is the sum of the digits, each times the weight of its place. -/
theorem foldl_range_eq_sum (b : Nat) (f : Nat → Nat) (k : Nat) :
    (List.range k).foldl (fun n p => n * b + f p) 0 =
      ((List.range k).map fun p => f p * b ^ (k - 1 - p)).sum := by
  induction k with
  | zero => rfl
  | succ k ih =>
    have hshift : ((List.range k).map fun p => f p * b ^ (k + 1 - 1 - p)) =
        (List.range k).map fun p => f p * b ^ (k - 1 - p) * b := by
      refine List.map_congr_left fun p hp => ?_
      have hlt : p < k := List.mem_range.1 hp
      rw [mul_assoc, ← pow_succ, show k - 1 - p + 1 = k + 1 - 1 - p by omega]
    rw [List.range_succ, List.foldl_append, List.map_append, List.sum_append, hshift,
      List.sum_map_mul_right, ← ih]
    simp

/-- `T38` character by character (R118). -/
theorem table38_eq_ascii : table38 =
    ascii [' ', '0', '1', '2', '3', '4', '5', '6', '7', '8', '9', 'A', 'B', 'C', 'D', 'E', 'F', 'G',
      'H', 'I', 'J', 'K', 'L', 'M', 'N', 'O', 'P', 'Q', 'R', 'S', 'T', 'U', 'V', 'W', 'X', 'Y', 'Z',
      '/'] := rfl

/-- The key is the top 22 of the low 64 bits of the product (R272). -/
theorem toNat_hash22 (t : Text) :
    (hash22 t).toNat = hashNumber t * hashMultiplier % 2 ^ 64 / 2 ^ 42 := by
  have hfits : hashNumber t * hashMultiplier % 2 ^ 64 / 2 ^ 42 < 2 ^ 22 :=
    Nat.div_lt_of_lt_mul (Nat.mod_lt _ (by decide))
  rw [hash22, Nat.shiftRight_eq_div_pow, BitVec.toNat_ofNat, Nat.mod_eq_of_lt hfits]

/-! ### HTADD -/

/-- Replacing a text, slot by slot (R273). -/
theorem getElem?_replaceText (ht : List Slot) (key : BitVec 22) (t : Text) (i : Nat) :
    (replaceText ht key t)[i]? =
      ht[i]?.map fun e : Slot => { e with text := if e.key = key then t else e.text } := by
  rw [replaceText, List.getElem?_map]
  refine congrArg (Option.map · ht[i]?) (funext fun e => ?_)
  split <;> rfl

/-- A key in use is found (R277). -/
theorem isSome_htFind22 {ht : List Slot} {key : BitVec 22} :
    (htFind22 ht key).isSome = true ↔ ∃ e ∈ ht, e.key = key := by
  simp [htFind22]

/-- The four outcomes of HTADD: an invalid text, a key in use, a new key in a full table, a new key
(R270, R273, R274). -/
theorem exec_htadd_cases (s : State) :
    (validCallsign s.htTextOperand = false ∧
      exec .htadd s = .next (State.completeWith .htInvalid { s with htKeyOut := htSentinel })) ∨
    (validCallsign s.htTextOperand = true ∧ (∃ e ∈ s.ht, e.key = hash22 s.htTextOperand) ∧
      exec .htadd s = .next (State.completeWith .ok { s with
        ht := replaceText s.ht (hash22 s.htTextOperand) s.htTextOperand
        htKeyOut := (hash22 s.htTextOperand).setWidth 32 })) ∨
    (validCallsign s.htTextOperand = true ∧ (∀ e ∈ s.ht, e.key ≠ hash22 s.htTextOperand) ∧
      s.ht.length = s.cfg.htCap ∧
      exec .htadd s = .next (State.completeWith .htFull { s with htKeyOut := htSentinel })) ∨
    (validCallsign s.htTextOperand = true ∧ (∀ e ∈ s.ht, e.key ≠ hash22 s.htTextOperand) ∧
      s.ht.length ≠ s.cfg.htCap ∧
      exec .htadd s = .next (State.completeWith .ok { s with
        ht := s.ht ++ [{ key := hash22 s.htTextOperand, text := s.htTextOperand }]
        htKeyOut := (hash22 s.htTextOperand).setWidth 32 })) := by
  have hexec : exec .htadd s = (htaddBody (s.enter .hash)).finish := rfl
  rw [hexec]
  rcases htaddBody_cases (s.enter .hash) with
    ⟨hv, e⟩ | ⟨hv, hf, e⟩ | ⟨hv, hf, hl, e⟩ | ⟨hv, hf, hl, e⟩ <;> rw [e]
  · exact .inl ⟨hv, rfl⟩
  · exact .inr (.inl ⟨hv, isSome_htFind22.1 hf, rfl⟩)
  · exact .inr (.inr (.inl ⟨hv, htFind22_eq_none.1 hf, hl, rfl⟩))
  · exact .inr (.inr (.inr ⟨hv, htFind22_eq_none.1 hf, hl, rfl⟩))

/-- Settles O39: a valid text is stored in the slot of its key, or, when there is room, in a new one. -/
theorem htaddStoresAValidText : Obligations.HtaddStoresAValidText := by
  refine ⟨fun t _ _ => ?key, fun s hv hplace => ?stored⟩
  case key =>
    rw [← table38_eq_ascii, toNat_hash22, hashNumber, foldl_range_eq_sum]
    rfl
  case stored =>
    rcases exec_htadd_cases s with
      ⟨hinvalid, -⟩ | ⟨-, hused, e⟩ | ⟨-, hnew, hfull, -⟩ | ⟨-, hnew, -, e⟩
    · exact absurd (hv.symm.trans hinvalid) (by decide)
    · refine ⟨_, e, rfl, fun _ => ⟨map_key_replaceText .., fun i x hx => ?_⟩, fun hnew => ?_,
        fun _ => rfl⟩
      · exact (getElem?_replaceText ..).trans (congrArg _ hx)
      · obtain ⟨x, hx, hkey⟩ := hused
        exact absurd hkey (hnew x hx)
    · rcases hplace with ⟨x, hx, hkey⟩ | hroom
      · exact absurd hkey (hnew x hx)
      · exact absurd hfull hroom
    · exact ⟨_, e, rfl, fun ⟨x, hx, hkey⟩ => absurd hkey (hnew x hx), fun _ => rfl, fun _ => rfl⟩

/-- Settles O40: the two failing outcomes of HTADD are those of their hypotheses. -/
theorem htaddRejectsWithTheSentinel : Obligations.HtaddRejectsWithTheSentinel := by
  refine fun s => ⟨fun hbad => ?invalid, fun hv hnew hfull => ?full⟩
  case invalid =>
    have hinvalid : ¬ validCallsign s.htTextOperand = true := by
      rw [validCallsign_iff]
      rintro ⟨hpos, hmax, htable⟩
      rcases hbad with hshort | hlong | ⟨b, hb, hnot⟩
      · exact absurd hpos (Nat.not_le.2 hshort)
      · exact absurd hmax (Nat.not_le.2 hlong)
      · exact hnot (htable b hb)
    rcases exec_htadd_cases s with ⟨-, e⟩ | ⟨hv, -⟩ | ⟨hv, -⟩ | ⟨hv, -⟩
    · exact e
    all_goals exact absurd hv hinvalid
  case full =>
    rcases exec_htadd_cases s with
      ⟨hinvalid, -⟩ | ⟨-, ⟨x, hx, hkey⟩, -⟩ | ⟨-, -, -, e⟩ | ⟨-, -, hroom, -⟩
    · exact absurd (hv.symm.trans hinvalid) (by decide)
    · exact absurd hkey (hnew x hx)
    · exact e
    · exact absurd hfull hroom

/-! ### The lookups -/

/-- HTLOOK writes the text of the slot with the key, or nothing, to `HT_TEXT_OUT` (R276). -/
theorem exec_htlook (s : State) : exec .htlook s = .next (State.completeWith .ok { s with
    htTextOut := ((htFind22 s.ht s.htKeyIn).map Slot.text).getD [] }) := by
  have hexec : exec .htlook s =
      .next ((lookupResult (htFind22 s.ht s.htKeyIn) (s.enter .hash)).completeWith .ok) := rfl
  rw [hexec, lookupResult_eq]
  rfl

/-- HTLOOK12 writes the text of the first slot with the 12 key bits, or nothing, to `HT_TEXT_OUT`
(R278). -/
theorem exec_htlook12 (s : State) : exec .htlook12 s = .next (State.completeWith .ok { s with
    htTextOut := ((htFind12 s.ht (s.htKeyIn.extractLsb' 0 12)).map Slot.text).getD [] }) := by
  have hexec : exec .htlook12 s =
      .next ((lookupResult (htFind12 s.ht (s.htKeyIn.extractLsb' 0 12))
        (s.enter .hash)).completeWith .ok) := rfl
  rw [hexec, lookupResult_eq]
  rfl

/-- The match of HTLOOK (R277). -/
theorem htFind22_eq_find? (ht : List Slot) (key : BitVec 22) :
    htFind22 ht key = ht.find? fun e => decide (e.key = key) := by
  simp only [htFind22, Bool.beq_eq_decide_eq]

/-- The operand of HTLOOK12 as a number (R278). -/
theorem htFind12_htKeyIn (s : State) : htFind12 s.ht (s.htKeyIn.extractLsb' 0 12) =
    s.ht.find? fun e => decide (e.key.toNat / 2 ^ 10 = s.htKeyIn.toNat % 2 ^ 12) := by
  rw [← htFind12_ofNat s.ht (Nat.mod_lt _ (by decide))]
  refine congrArg (htFind12 s.ht) (BitVec.eq_of_toNat_eq ?_)
  simp

section
variable {ht : List Slot} (P : Slot → Prop) [DecidablePred P]

/-- The text a lookup answers is that of the earliest matching slot (R277, R279). -/
theorem foundText_of_first {k : Nat} {e : Slot} (hk : ht[k]? = some e) (he : P e)
    (hfirst : ∀ j < k, ∀ e' : Slot, ht[j]? = some e' → ¬ P e') :
    ((ht.find? fun e => decide (P e)).map Slot.text).getD [] = e.text := by
  obtain ⟨hlt, hget⟩ := List.getElem?_eq_some_iff.1 hk
  have hfind : ht.find? (fun e => decide (P e)) = some e :=
    List.find?_eq_some_iff_getElem.2 ⟨decide_eq_true he, k, hlt, hget, fun j hj => by
      simpa using hfirst j hj _ (List.getElem?_eq_getElem (hj.trans hlt))⟩
  rw [hfind]
  rfl

/-- The text a lookup answers is empty when no slot matches (R276, R278). -/
theorem foundText_of_none (hnone : ∀ e ∈ ht, ¬ P e) :
    ((ht.find? fun e => decide (P e)).map Slot.text).getD [] = [] := by
  have hfind : ht.find? (fun e => decide (P e)) = none := by simpa using hnone
  rw [hfind]
  rfl

end

/-- Settles O43: both commands answer the first slot that matches, each by its own match. -/
theorem lookupsReturnTheEarliestMatchingSlot : Obligations.LookupsReturnTheEarliestMatchingSlot := by
  refine fun s => ⟨⟨_, exec_htlook s, rfl, ?_, ?_, fun _ => rfl⟩,
    ⟨_, exec_htlook12 s, rfl, ?_, ?_, fun _ => rfl⟩⟩
  · rw [State.completeWith_htTextOut, htFind22_eq_find?]
    exact fun _ _ => foundText_of_first (·.key = s.htKeyIn)
  · rw [State.completeWith_htTextOut, htFind22_eq_find?]
    exact foundText_of_none (·.key = s.htKeyIn)
  · rw [State.completeWith_htTextOut, htFind12_htKeyIn]
    exact fun _ _ => foundText_of_first (·.key.toNat / 2 ^ 10 = s.htKeyIn.toNat % 2 ^ 12)
  · rw [State.completeWith_htTextOut, htFind12_htKeyIn]
    exact foundText_of_none (·.key.toNat / 2 ^ 10 = s.htKeyIn.toNat % 2 ^ 12)

/-! ### The round trip -/

/-- After a successful HTADD the key it reports finds the text it stored (R273, R282). -/
theorem find_of_exec_htadd {s t : State} (h : exec .htadd s = .next t) (hok : t.err = .ok) :
    ∃ e, htFind22 t.ht (t.htKeyOut.setWidth 22) = some e ∧ e.text = s.htTextOperand := by
  have hkey (key : BitVec 22) : (key.setWidth 32).setWidth 22 = key :=
    (BitVec.setWidth_setWidth_of_le key (by decide)).trans (BitVec.setWidth_eq key)
  rcases exec_htadd_cases s with ⟨-, e⟩ | ⟨-, hused, e⟩ | ⟨-, -, -, e⟩ | ⟨-, hnew, -, e⟩ <;>
    cases h.symm.trans e
  · cases hok
  · rw [State.completeWith_ht, State.completeWith_htKeyOut, hkey]
    exact htFind22_replaceText (isSome_htFind22.2 hused)
  · cases hok
  · rw [State.completeWith_ht, State.completeWith_htKeyOut, hkey]
    exact ⟨_, htFind22_append _ (htFind22_eq_none.2 hnew), rfl⟩

/-- Settles O42: HTLOOK answers the slot that the reported key finds. -/
theorem lookupAfterAddReturnsTheText : Obligations.LookupAfterAddReturnsTheText := by
  intro s t u hadd hok hlook
  obtain ⟨e, hfind, htext⟩ := find_of_exec_htadd hadd hok
  cases hlook.symm.trans (exec_htlook _)
  refine ⟨?_, rfl, rfl⟩
  rw [State.completeWith_htTextOut, hfind]
  exact htext

end Sys2Proof.Machine
end


section
/-! The result store (46_result_store_and_slot.md): the outcomes of STORE, the formulas of a record's
`LEVEL` and `FREQ_HZ`, CLRRES and NOP. -/

namespace Sys2Proof.Machine

open Sys2Proof

/-! ### STORE -/

/-- A message is a duplicate when its assembled text is that of a stored record (R292). -/
theorem isDuplicate_iff (s : State) :
    isDuplicate s = true ↔ ∃ r ∈ s.res, assembled r.msg = assembled s.msg := by
  simp [isDuplicate]

theorem isDuplicate_eq_false_iff (s : State) :
    isDuplicate s = false ↔ ∀ r ∈ s.res, assembled r.msg ≠ assembled s.msg := by
  simp [isDuplicate]

/-- STORE with `MSG_OK` set (R290, R292, R293): a duplicate, a full store, or a new record. -/
theorem exec_store_cases {s : State} (h : s.valid.msgOk = true) :
    (isDuplicate s = true ∧
      exec .store s = .next ((s.setDisp s.curCand.toNat .dup).completeWith .ok)) ∨
    (isDuplicate s = false ∧ s.res.length = 6 ∧
      exec .store s = .next ((s.setDisp s.curCand.toNat .full).completeWith .ok)) ∨
    (isDuplicate s = false ∧ s.res.length ≠ 6 ∧
      exec .store s = .next (({ s with res := s.res ++ [recordOf s s.curCand] }.setDisp
        s.curCand.toNat .stored).completeWith .ok)) := by
  have hexec : exec .store s = (storeBody (s.enter .store)).finish := rfl
  rw [hexec]
  rcases storeBody_cases (s.enter .store) with ⟨hmsg, -⟩ | ⟨-, hdup, e⟩ | ⟨-, hnew, hfull, e⟩ |
    ⟨-, hnew, hroom, e⟩
  · exact absurd (h.symm.trans hmsg) (by decide)
  · exact .inl ⟨hdup, congrArg BodyResult.finish e⟩
  · exact .inr (.inl ⟨hnew, hfull, congrArg BodyResult.finish e⟩)
  · exact .inr (.inr ⟨hnew, hroom, congrArg BodyResult.finish e⟩)

/-- An index into `CL` finds its candidate (R22). -/
theorem State.getElem?_cl {s : State} {i : Nat} (h : i < s.cl.length) :
    s.cl[i]? = some (s.candidate i) := by
  rw [State.candidate, List.getD_eq_getElem _ _ h, List.getElem?_eq_getElem h]

/-- Settles O44: the three outcomes of STORE exclude each other, and each is that of its hypotheses. -/
theorem storeAppendsUnlessDuplicateOrFull : Obligations.StoreAppendsUnlessDuplicateOrFull := by
  intro s h hmsg
  have hcand : s.curCand.toNat < s.cl.length := h.cl ▸ h.curCand
  rcases exec_store_cases hmsg with ⟨hdup, e⟩ | ⟨hnew, hfull, e⟩ | ⟨hnew, hroom, e⟩
  · obtain ⟨r, hr, htext⟩ := (isDuplicate_iff s).1 hdup
    exact ⟨_, e, rfl, ⟨_, rfl, fun _ => ⟨rfl, rfl⟩, fun hother => absurd htext (hother r hr)⟩,
      fun _ => rfl⟩
  · rw [isDuplicate_eq_false_iff] at hnew
    exact ⟨_, e, rfl, ⟨_, rfl, fun ⟨r, hr, htext⟩ => absurd htext (hnew r hr),
      fun _ => ⟨fun _ => ⟨rfl, rfl⟩, fun hroom => absurd hfull hroom.ne⟩⟩, fun _ => rfl⟩
  · rw [isDuplicate_eq_false_iff] at hnew
    exact ⟨_, e, rfl, ⟨_, rfl, fun ⟨r, hr, htext⟩ => absurd htext (hnew r hr),
      fun _ => ⟨fun hfull => absurd hfull hroom, fun _ => ⟨rfl, recordOf s s.curCand, rfl, rfl, rfl,
        rfl, rfl, rfl, rfl, rfl, State.getElem?_cl hcand⟩⟩⟩, fun _ => rfl⟩

/-! ### The formulas of a record -/

/-- `LEVEL` is the distance to the clamp in steps of 6, rounded towards zero (R295). -/
theorem toInt_levelOf (score : BitVec 16) :
    (levelOf score).toInt = -((160 - min score.toInt 160) / 6) := by
  have hlo := BitVec.le_toInt score
  have htdiv : (min score.toInt 160 - 160).tdiv 6 = -((160 - min score.toInt 160) / 6) := by
    rw [← neg_sub, Int.neg_tdiv, Int.tdiv_eq_ediv_of_nonneg (by omega)]
  rw [levelOf, Config.levelClamp, Config.levelDiv, htdiv, BitVec.toInt_ofInt]
  exact Int.bmod_eq_of_le (by omega) (by omega)

/-- `FREQ_HZ` is the floor of the half-bins times 3.125 Hz, cut to its 16 bits (R296). -/
theorem toNat_freqHzOf (b f : BitVec 16) (q : BitVec 1) :
    (freqHzOf b f q).toNat = (2 * (b.toNat + f.toNat) + q.toNat) * 25 / 8 % 65536 := by
  rw [freqHzOf, halfBins, BitVec.toNat_ofNat]

/-- Settles O45, from the two formulas as arithmetic. -/
theorem levelAndFrequencyFollowTheirFormulas : Obligations.LevelAndFrequencyFollowTheirFormulas := by
  refine ⟨fun score => ?level, fun b f q => ?freq⟩
  case level =>
    have hlo := BitVec.le_toInt score
    rw [toInt_levelOf]
    omega
  case freq =>
    have hb := b.isLt
    have hf := f.isLt
    have hq := q.isLt
    have hscale (x : Nat) : x * 3125 / 1000 = x * 25 / 8 := by omega
    dsimp only
    rw [toNat_freqHzOf, hscale]
    omega

/-! ### CLRRES and NOP -/

/-- Settles O46: the body of CLRRES writes only the records. -/
theorem clrresEmptiesTheStore : Obligations.ClrresEmptiesTheStore := fun _ => rfl

/-- NOP at its completion finds `PHASE` at 0 already (R300). -/
theorem exec_nop {s : State} (h : s.phase = .idle) :
    exec .nop s = .next { s with running := none, done := true, err := .ok } := by
  have hexec : exec .nop s =
      .next { s with running := none, done := true, err := .ok, phase := .idle } := rfl
  rw [hexec, ← h]

/-- The engine's turn with the zero word accepted (R79, R300). -/
theorem step_nop {s : State} {rest : List Event} (hr : s.inReset = false)
    (hin : s.inputs = .engine :: rest) (hw : s.running = some 0) (h : s.phase = .idle) :
    step s = .next { s with inputs := rest, running := none, done := true, err := .ok } :=
  ((step_engine hin).trans (engineTurn_of_decode_ok (s := { s with inputs := rest }) hr hw rfl)).trans
    (exec_nop h)

/-- Settles O47: acceptance of the zero word leaves `SEQ`, and the engine's turn runs NOP. -/
theorem nopOnlyCompletes : Obligations.NopOnlyCompletes := by
  refine ⟨fun s h => exec_nop h, fun s rest h hidle hr hin => ?_⟩
  have hphase : s.phase = .idle := h.phase hidle
  have hrunning : s.running = none := by simpa [State.busy] using hidle
  have haccept : hostWrite 0x004 0 { s with inputs := .engine :: rest } =
      { s with inputs := .engine :: rest, running := some 0, done := false, err := .ok, lastOp := 0 } :=
    (hostWrite_cmd (s := { s with inputs := .engine :: rest }) hr hidle 0).trans
      (accept_of_decode_ok (i := .nop) rfl _)
  refine ⟨_, (step_write hin).trans (congrArg _ haccept), rfl, ?_⟩
  refine (step_nop (rest := rest) ?_ ?_ ?_ ?_).trans ?_
  exacts [hr, rfl, rfl, hphase, by rw [← hrunning]]

end Sys2Proof.Machine
end

section
/-! One candidate of a slot (R307, R310): its stages as a function of the state, what they keep, and that
both DECODE and the stage commands run them. -/

namespace Sys2Proof.Machine

open Sys2Proof

/-! ### What the stages ignore -/

/-- The state in which DECODE and its sequence of stage commands differ while they run: `STATUS` without
the sticky flags, `SEQ`, and `DISP` (R306 to R310). -/
structure SlotTrace where
  running : Option Word
  done : Bool
  err : ErrCode
  phase : Phase
  candIdx : BitVec 7
  disp : List Disposition

/-- A state with the trace `x`. -/
def State.withSlot (x : SlotTrace) (s : State) : State :=
  { s with
    running := x.running
    done := x.done
    err := x.err
    phase := x.phase
    candIdx := x.candIdx
    disp := x.disp }

section
variable (x y : SlotTrace) (s : State)

@[simp] theorem State.withSlot_valid : (s.withSlot x).valid = s.valid := rfl
@[simp] theorem State.withSlot_candCount : (s.withSlot x).candCount = s.candCount := rfl
@[simp] theorem State.withSlot_disp : (s.withSlot x).disp = x.disp := rfl
@[simp] theorem State.withSlot_res : (s.withSlot x).res = s.res := rfl
@[simp] theorem State.withSlot_slotSeq : (s.withSlot x).slotSeq = s.slotSeq := rfl
@[simp] theorem State.withSlot_timestamp : (s.withSlot x).timestamp = s.timestamp := rfl
@[simp] theorem State.withSlot_withSlot : (s.withSlot x).withSlot y = s.withSlot y := rfl

end

/-- The same end of a body, in a state with the trace `x`. -/
def BodyResult.withSlot (x : SlotTrace) : BodyResult → BodyResult
  | .done s => .done (s.withSlot x)
  | .raised e s => .raised e (s.withSlot x)

@[simp] theorem BodyResult.out_withSlot (x : SlotTrace) (r : BodyResult) :
    (r.withSlot x).out = r.out.withSlot x := by
  cases r <;> rfl

/-- A body that neither reads nor writes the trace. -/
def IgnoresSlot (body : State → BodyResult) : Prop :=
  ∀ (x : SlotTrace) (s : State), body (s.withSlot x) = (body s).withSlot x

/-- A body with an input flag (R327). -/
theorem ignoresSlot_ite {c : State → Prop} [DecidablePred c] {f k : State → BodyResult}
    (hc : ∀ x s, c (State.withSlot x s) ↔ c s) (hf : IgnoresSlot f) (hk : IgnoresSlot k) :
    IgnoresSlot fun s => if c s then f s else k s := by
  intro x s
  by_cases hs : c s
  · simp [hs, hc, hf x s]
  · simp [hs, hc, hk x s]

theorem ignoresSlot_extractBody (idx : Nat) : IgnoresSlot (extractBody idx) :=
  ignoresSlot_ite (fun _ _ => .rfl) (fun _ _ => rfl)
    (ignoresSlot_ite (fun _ _ => .rfl) (fun _ _ => rfl) fun _ _ => rfl)

theorem ignoresSlot_ldpcBody : IgnoresSlot ldpcBody :=
  ignoresSlot_ite (fun _ _ => .rfl) (fun _ _ => rfl) fun _ _ => rfl

theorem ignoresSlot_checkBody : IgnoresSlot checkBody :=
  ignoresSlot_ite (fun _ _ => .rfl) (fun _ _ => rfl) fun _ _ => rfl

theorem ignoresSlot_unpackBody : IgnoresSlot unpackBody := by
  refine ignoresSlot_ite (fun _ _ => .rfl) (fun _ _ => rfl) fun x s => ?_
  have hu : unpackMessage (s.withSlot x).ht (message77 (s.withSlot x).a91) =
      unpackMessage s.ht (message77 s.a91) := rfl
  dsimp only
  rw [hu]
  cases unpackMessage s.ht (message77 s.a91) <;> rfl

/-! ### The stages of a candidate -/

/-- EXTRACT and LDPC, which every candidate passes (R307). -/
def likelihoodStages (idx : Nat) (s : State) : State := (ldpcBody (extractBody idx s).out).out

/-- CHECK behind its gate (R307). -/
def checkGate (s : State) : State := if s.valid.cwOk then (checkBody s).out else s

/-- UNPACK behind its gate (R307). -/
def unpackGate (s : State) : State := if s.valid.payOk then (unpackBody s).out else s

/-- What the stages of a candidate before STORE leave. -/
def candidateStages (idx : Nat) (s : State) : State :=
  unpackGate (checkGate (likelihoodStages idx s))

theorem likelihoodStages_withSlot (idx : Nat) (x : SlotTrace) (s : State) :
    likelihoodStages idx (s.withSlot x) = (likelihoodStages idx s).withSlot x := by
  rw [likelihoodStages, ignoresSlot_extractBody, BodyResult.out_withSlot, ignoresSlot_ldpcBody,
    BodyResult.out_withSlot]
  rfl

theorem checkGate_withSlot (x : SlotTrace) (s : State) :
    checkGate (s.withSlot x) = (checkGate s).withSlot x := by
  rw [checkGate, ignoresSlot_checkBody, BodyResult.out_withSlot, checkGate, apply_ite (State.withSlot x)]
  rfl

theorem unpackGate_withSlot (x : SlotTrace) (s : State) :
    unpackGate (s.withSlot x) = (unpackGate s).withSlot x := by
  rw [unpackGate, ignoresSlot_unpackBody, BodyResult.out_withSlot, unpackGate,
    apply_ite (State.withSlot x)]
  rfl

theorem candidateStages_withSlot (idx : Nat) (x : SlotTrace) (s : State) :
    candidateStages idx (s.withSlot x) = (candidateStages idx s).withSlot x := by
  rw [candidateStages, likelihoodStages_withSlot, checkGate_withSlot, unpackGate_withSlot]
  rfl

/-! ### What the stages keep -/

/-- `t` differs from `s` only in what one candidate of a slot writes: the inputs of the slot, its
candidates and the hash table are the same. -/
structure SlotFrame (s t : State) : Prop extends EngineFrame s t where
  cl : t.cl = s.cl
  candCount : t.candCount = s.candCount
  ht : t.ht = s.ht

/-- `t` differs from `s` only in what the stages before STORE write: the results are the same too. -/
structure StageFrame (s t : State) : Prop extends SlotFrame s t where
  disp : t.disp = s.disp
  res : t.res = s.res

theorem SlotFrame.refl (s : State) : SlotFrame s s := ⟨.refl s, rfl, rfl, rfl⟩

theorem SlotFrame.trans {s t u : State} (h : SlotFrame s t) (h' : SlotFrame t u) : SlotFrame s u :=
  ⟨h.toEngineFrame.trans h'.toEngineFrame, h'.cl.trans h.cl, h'.candCount.trans h.candCount,
    h'.ht.trans h.ht⟩

theorem StageFrame.refl (s : State) : StageFrame s s := ⟨.refl s, rfl, rfl⟩

theorem StageFrame.trans {s t u : State} (h : StageFrame s t) (h' : StageFrame t u) :
    StageFrame s u :=
  ⟨h.toSlotFrame.trans h'.toSlotFrame, h'.disp.trans h.disp, h'.res.trans h.res⟩

theorem SlotFrame.withSlot (x : SlotTrace) (s : State) : SlotFrame s (s.withSlot x) :=
  ⟨by constructor <;> rfl, rfl, rfl, rfl⟩

theorem StageFrame.extractBody (idx : Nat) (s : State) : StageFrame s (extractBody idx s).out := by
  refine ⟨⟨.extractBody idx s, ?_, ?_, extractBody_ht idx s⟩, ?_, ?_⟩ <;>
    rcases extractBody_cases idx s with ⟨-, e⟩ | ⟨-, -, e⟩ | ⟨-, -, e⟩ <;> rw [e] <;> rfl

theorem StageFrame.ldpcBody (s : State) : StageFrame s (ldpcBody s).out := by
  refine ⟨⟨.ldpcBody s, ?_, ?_, ldpcBody_ht s⟩, ?_, ?_⟩ <;>
    rcases ldpcBody_cases s with ⟨-, e⟩ | ⟨-, e⟩ <;> rw [e] <;> rfl

theorem StageFrame.checkBody (s : State) : StageFrame s (checkBody s).out := by
  refine ⟨⟨.checkBody s, ?_, ?_, checkBody_ht s⟩, ?_, ?_⟩ <;>
    rcases checkBody_cases s with ⟨-, e⟩ | ⟨-, e⟩ <;> rw [e] <;> rfl

theorem StageFrame.unpackBody (s : State) : StageFrame s (unpackBody s).out := by
  refine ⟨⟨.unpackBody s, ?_, ?_, unpackBody_ht s⟩, ?_, ?_⟩ <;>
    rcases unpackBody_cases s with ⟨-, e⟩ | ⟨-, _, -, e⟩ | ⟨-, _, -, e⟩ <;> rw [e] <;> rfl

theorem StageFrame.likelihoodStages (idx : Nat) (s : State) : StageFrame s (likelihoodStages idx s) :=
  (StageFrame.extractBody idx s).trans (.ldpcBody _)

theorem StageFrame.checkGate (s : State) : StageFrame s (checkGate s) := by
  unfold Machine.checkGate
  split
  · exact .checkBody s
  · exact .refl s

theorem StageFrame.unpackGate (s : State) : StageFrame s (unpackGate s) := by
  unfold Machine.unpackGate
  split
  · exact .unpackBody s
  · exact .refl s

theorem StageFrame.candidateStages (idx : Nat) (s : State) : StageFrame s (candidateStages idx s) :=
  ((StageFrame.likelihoodStages idx s).trans (.checkGate _)).trans (.unpackGate _)

/-! ### Candidates in range, and their flags -/

/-- `idx` names a candidate whose transmission lies inside the matrix, so EXTRACT accepts it (R161,
R162). -/
structure State.Extractable (s : State) (idx : Nat) : Prop where
  listed : idx < s.candCount.toNat
  inRange : inRange s.cfg (s.candidate idx) = true

/-- The flags after the stages: each stands on the one before it (R160, R175, R200). -/
structure Valid.Chained (v : Valid) : Prop where
  pay : v.payOk = true → v.cwOk = true
  msg : v.msgOk = true → v.payOk = true

theorem SlotFrame.extractable {s t : State} (h : SlotFrame s t) {idx : Nat} (hs : s.Extractable idx) :
    t.Extractable idx where
  listed := by rw [h.candCount]; exact hs.listed
  inRange := by rw [State.candidate, h.cl, h.cfg]; exact hs.inRange

/-- All gates passed, STORE follows (R307). -/
theorem Valid.Chained.dropCode_eq_none_iff {v : Valid} (h : v.Chained) :
    dropCode v = none ↔ v.msgOk = true := by
  by_cases hmsg : v.msgOk = true
  · simp [dropCode, hmsg, h.msg hmsg, h.pay (h.msg hmsg)]
  · simp only [dropCode, hmsg]
    split_ifs <;> simp

theorem extractBody_of_extractable {s : State} {idx : Nat} (h : s.Extractable idx) :
    extractBody idx s = .done { s with
      valid := Valid.afterExtract
      curCand := BitVec.ofNat 7 idx
      llr := llrValues s (s.candidate idx) } := by
  rcases extractBody_cases idx s with ⟨hle, -⟩ | ⟨-, hout, -⟩ | ⟨-, -, e⟩
  · exact absurd h.listed (Nat.not_lt.2 hle)
  · exact absurd (h.inRange.symm.trans hout) (by decide)
  · exact e

theorem ldpcBody_of_llrRdy {s : State} (h : s.valid.llrRdy = true) :
    ldpcBody s = .done { s with
      hard := packBits 174 s.ldpcOutcome.bits
      ldpcErrors := BitVec.ofNat 8 s.ldpcOutcome.errors
      ldpcIter := BitVec.ofNat 8 s.ldpcOutcome.iterations
      valid := s.valid.afterLdpc (decide (s.ldpcOutcome.errors = 0)) } := by
  rcases ldpcBody_cases s with ⟨hclear, -⟩ | ⟨-, e⟩
  · exact absurd (h.symm.trans hclear) (by decide)
  · exact e

theorem checkBody_of_cwOk {s : State} (h : s.valid.cwOk = true) :
    checkBody s = .done { s with
      a91 := packPayload s.hard
      crcRx := embeddedCrc (packPayload s.hard)
      crcCalc := computedCrc (packPayload s.hard)
      crcOk := decide (embeddedCrc (packPayload s.hard) = computedCrc (packPayload s.hard))
      valid := s.valid.afterCheck
        (decide (embeddedCrc (packPayload s.hard) = computedCrc (packPayload s.hard))) } := by
  rcases checkBody_cases s with ⟨hclear, -⟩ | ⟨-, e⟩
  · exact absurd (h.symm.trans hclear) (by decide)
  · exact e

/-- UNPACK with its input flag set runs to its end, and writes of `VALID` only `MSG_OK` (R215). -/
theorem unpackBody_of_payOk {s : State} (h : s.valid.payOk = true) :
    unpackBody s = .done (unpackBody s).out ∧
      ∃ unpacked, (unpackBody s).out.valid = s.valid.afterUnpack unpacked := by
  rcases unpackBody_cases s with ⟨hclear, -⟩ | ⟨-, _, -, e⟩ | ⟨-, _, -, e⟩
  · exact absurd (h.symm.trans hclear) (by decide)
  · exact ⟨by rw [e]; rfl, false, by rw [e]; rfl⟩
  · exact ⟨by rw [e]; rfl, true, by rw [e]; rfl⟩

theorem unpackBody_of_error {s : State} {reason : UFail} (h : s.valid.payOk = true)
    (hu : unpackMessage s.ht (message77 s.a91) = .error reason) :
    unpackBody s = .done { s with
      i3 := BitVec.ofNat 3 (tagI3 (message77 s.a91))
      n3 := BitVec.ofNat 3 (tagN3 (message77 s.a91))
      msg := Msg.zero
      ufail := reason
      valid := s.valid.afterUnpack false } := by
  simp [unpackBody, h, hu]

theorem unpackBody_of_ok {s : State} {m : Msg} (h : s.valid.payOk = true)
    (hu : unpackMessage s.ht (message77 s.a91) = .ok m) :
    unpackBody s = .done { s with
      i3 := BitVec.ofNat 3 (tagI3 (message77 s.a91))
      n3 := BitVec.ofNat 3 (tagN3 (message77 s.a91))
      msg := m
      ufail := .none
      valid := s.valid.afterUnpack true } := by
  simp [unpackBody, h, hu]

/-- EXTRACT and LDPC of a candidate in range run to their ends, and leave it the current one with no
payload and no message (R160, R175). -/
theorem likelihoodStages_spec {s : State} {idx : Nat} (h : s.Extractable idx) :
    extractBody idx s = .done (extractBody idx s).out ∧
    ldpcBody (extractBody idx s).out = .done (likelihoodStages idx s) ∧
    (likelihoodStages idx s).curCand = BitVec.ofNat 7 idx ∧
    ∃ clean, (likelihoodStages idx s).valid = Valid.afterExtract.afterLdpc clean := by
  have he := extractBody_of_extractable h
  have hvalid : (extractBody idx s).out.valid = Valid.afterExtract := by rw [he]; rfl
  have hl := ldpcBody_of_llrRdy (s := (extractBody idx s).out) (by rw [hvalid]; rfl)
  refine ⟨by rw [he]; rfl, by rw [likelihoodStages, hl]; rfl, by rw [likelihoodStages, hl, he]; rfl,
    decide ((extractBody idx s).out.ldpcOutcome.errors = 0), ?_⟩
  rw [likelihoodStages, hl, ← hvalid]
  rfl

theorem checkGate_of_cwOk {s : State} (h : s.valid.cwOk = true) : checkGate s = (checkBody s).out :=
  if_pos h

theorem checkGate_of_not_cwOk {s : State} (h : s.valid.cwOk = false) : checkGate s = s := by
  rw [checkGate, h]
  rfl

theorem unpackGate_of_payOk {s : State} (h : s.valid.payOk = true) : unpackGate s = (unpackBody s).out :=
  if_pos h

theorem unpackGate_of_not_payOk {s : State} (h : s.valid.payOk = false) : unpackGate s = s := by
  rw [unpackGate, h]
  rfl

theorem Valid.chained_afterLdpc (v : Valid) (clean : Bool) : (v.afterLdpc clean).Chained :=
  ⟨(fun h => nomatch h), (fun h => nomatch h)⟩

/-- CHECK leaves the flags chained, and no message (R200). -/
theorem chained_checkGate {s : State} (h : s.valid.Chained) (hmsg : s.valid.msgOk = false) :
    (checkGate s).valid.Chained ∧ (checkGate s).valid.msgOk = false := by
  cases hcw : s.valid.cwOk
  · rw [checkGate_of_not_cwOk hcw]
    exact ⟨h, hmsg⟩
  · rw [checkGate_of_cwOk hcw, checkBody_of_cwOk hcw]
    exact ⟨⟨fun _ => hcw, fun hm => nomatch hm⟩, rfl⟩

/-- UNPACK leaves the flags chained (R215). -/
theorem chained_unpackGate {s : State} (h : s.valid.Chained) : (unpackGate s).valid.Chained := by
  cases hpay : s.valid.payOk
  · rw [unpackGate_of_not_payOk hpay]
    exact h
  · obtain ⟨-, unpacked, hvalid⟩ := unpackBody_of_payOk hpay
    rw [unpackGate_of_payOk hpay, hvalid]
    exact ⟨h.pay, fun _ => hpay⟩

theorem chained_candidateStages {s : State} {idx : Nat} (h : s.Extractable idx) :
    (candidateStages idx s).valid.Chained := by
  obtain ⟨-, -, -, clean, hvalid⟩ := likelihoodStages_spec h
  have hl : (likelihoodStages idx s).valid.Chained := hvalid ▸ Valid.chained_afterLdpc _ clean
  exact chained_unpackGate (chained_checkGate hl (by rw [hvalid]; rfl)).1

theorem checkBody_curCand (s : State) : (checkBody s).out.curCand = s.curCand := by
  rcases checkBody_cases s with ⟨-, e⟩ | ⟨-, e⟩ <;> rw [e] <;> rfl

theorem unpackBody_curCand (s : State) : (unpackBody s).out.curCand = s.curCand := by
  rcases unpackBody_cases s with ⟨-, e⟩ | ⟨-, _, -, e⟩ | ⟨-, _, -, e⟩ <;> rw [e] <;> rfl

/-- `CUR_CAND` is the candidate (R160, R308). -/
theorem candidateStages_curCand {s : State} {idx : Nat} (h : s.Extractable idx) :
    (candidateStages idx s).curCand = BitVec.ofNat 7 idx := by
  obtain ⟨-, -, hcur, -⟩ := likelihoodStages_spec h
  rw [candidateStages, unpackGate, apply_ite State.curCand, unpackBody_curCand, ite_self, checkGate,
    apply_ite State.curCand, checkBody_curCand, ite_self, hcur]

/-! ### The outcome of a candidate -/

/-- The disposition STORE writes (R290, R292, R293). -/
def storeOutcome (s : State) : Disposition :=
  if isDuplicate s then .dup else if s.res.length = Config.resCap then .full else .stored

/-- The disposition a candidate gets from the state its stages leave (R304, R307). -/
def candidateOutcome (s : State) : Disposition := (dropCode s.valid).getD (storeOutcome s)

/-- The state with the record of a candidate that is stored (R293, R294). -/
def keepRecord (s : State) : State :=
  { s with
    res := if candidateOutcome s = .stored then s.res ++ [recordOf s s.curCand] else s.res }

@[simp] theorem keepRecord_valid (s : State) : (keepRecord s).valid = s.valid := rfl

theorem keepRecord_withSlot (x : SlotTrace) (s : State) :
    keepRecord (s.withSlot x) = (keepRecord s).withSlot x := rfl

theorem candidateOutcome_of_dropCode {s : State} {d : Disposition} (h : dropCode s.valid = some d) :
    candidateOutcome s = d := by
  rw [candidateOutcome, h]
  rfl

theorem candidateOutcome_of_passed {s : State} (h : dropCode s.valid = none) :
    candidateOutcome s = storeOutcome s := by
  rw [candidateOutcome, h]
  rfl

theorem dropCode_ne_none_or_stored {v : Valid} {d : Disposition} (h : dropCode v = some d) :
    d ≠ .none ∧ d ≠ .stored := by
  unfold dropCode at h
  split_ifs at h <;> cases h <;> decide

theorem candidateOutcome_ne_none (s : State) : candidateOutcome s ≠ .none := by
  cases h : dropCode s.valid with
  | some d => exact candidateOutcome_of_dropCode h ▸ (dropCode_ne_none_or_stored h).1
  | none =>
    rw [candidateOutcome_of_passed h, storeOutcome]
    split_ifs <;> decide

theorem keepRecord_of_ne_stored {s : State} (h : candidateOutcome s ≠ .stored) : keepRecord s = s := by
  rw [keepRecord, if_neg h]

/-- A stored candidate has passed every gate, and its message is new and has room (R290 to R293). -/
theorem passed_of_stored {s : State} (h : candidateOutcome s = .stored) :
    dropCode s.valid = none ∧ isDuplicate s = false ∧ s.res.length ≠ Config.resCap := by
  have hdrop : dropCode s.valid = none := by
    cases hd : dropCode s.valid with
    | none => rfl
    | some d =>
      exact absurd ((candidateOutcome_of_dropCode hd).symm.trans h) (dropCode_ne_none_or_stored hd).2
  rw [candidateOutcome_of_passed hdrop, storeOutcome] at h
  split_ifs at h with hdup hfull
  exact ⟨hdrop, Bool.eq_false_iff.2 hdup, hfull⟩

/-- STORE of a message that passed every gate writes its record and its disposition (R290). -/
theorem storeBody_eq {s : State} (hdrop : dropCode s.valid = none) (hmsg : s.valid.msgOk = true) :
    storeBody s = .done ((keepRecord s).setDisp s.curCand.toNat (storeOutcome s)) := by
  rw [keepRecord, candidateOutcome_of_passed hdrop]
  rcases storeBody_cases s with ⟨hclear, -⟩ | ⟨-, hdup, e⟩ | ⟨-, hnew, hfull, e⟩ | ⟨-, hnew, hroom, e⟩
  · exact absurd (hmsg.symm.trans hclear) (by decide)
  · simp [e, storeOutcome, hdup]
  · simp [e, storeOutcome, hnew, hfull]
  · simp [e, storeOutcome, hnew, hroom]

end Sys2Proof.Machine
end

section
/-! One candidate in DECODE and in the sequence of stage commands (R307, R310): both run its stages and
keep its record, and each leaves its own trace. -/

namespace Sys2Proof.Machine

open Sys2Proof

/-- The trace a state has. -/
def State.slotTrace (s : State) : SlotTrace :=
  ⟨s.running, s.done, s.err, s.phase, s.candIdx, s.disp⟩

theorem State.withSlot_slotTrace (s : State) : s.withSlot s.slotTrace = s := rfl

/-- A stage that runs to its end, does so from every trace. -/
theorem IgnoresSlot.done {body : State → BodyResult} (hbody : IgnoresSlot body) {s : State}
    (hdone : body s = .done (body s).out) (x : SlotTrace) :
    body (s.withSlot x) = .done ((body s).out.withSlot x) := by
  rw [hbody, hdone]
  rfl

/-! ### In DECODE -/

/-- A candidate of DECODE has ended after its stages left `w`: its record is kept and its disposition
written (R307). -/
def EndsCandidate (r : BodyResult) (w : State) : Prop :=
  ∃ x : SlotTrace, x.disp = w.disp.set w.curCand.toNat (candidateOutcome w) ∧
    r = .done ((keepRecord w).withSlot x)

/-- Of the trace in which the last stage ends, only `DISP` matters (R308). -/
theorem EndsCandidate.of_withSlot {r : BodyResult} {w : State} {x : SlotTrace} (hx : x.disp = w.disp)
    (h : EndsCandidate r (w.withSlot x)) : EndsCandidate r w := by
  obtain ⟨y, hy, e⟩ := h
  exact ⟨y, hx ▸ hy, e⟩

/-- A drop at the gate that closes (R304). -/
theorem dropCandidate_ends {s : State} {d : Disposition} (h : dropCode s.valid = some d) :
    EndsCandidate (dropCandidate d s) s := by
  have hd := candidateOutcome_of_dropCode h
  refine ⟨(s.setDisp s.curCand.toNat d).slotTrace, by rw [hd]; rfl, ?_⟩
  rw [keepRecord_of_ne_stored (hd ▸ (dropCode_ne_none_or_stored h).2)]
  rfl

theorem storeBody_ends {s : State} (hdrop : dropCode s.valid = none) (hmsg : s.valid.msgOk = true) :
    EndsCandidate (storeBody s) s :=
  ⟨(s.setDisp s.curCand.toNat (storeOutcome s)).slotTrace,
    by rw [candidateOutcome_of_passed hdrop]; rfl, storeBody_eq hdrop hmsg⟩

theorem decodeStore_ends (idx : Nat) {s : State} (h : s.valid.Chained) (hpay : s.valid.payOk = true) :
    EndsCandidate (decodeStore idx s) s := by
  unfold decodeStore
  split
  next hmsg => exact dropCandidate_ends (by simp [dropCode, h.pay hpay, hpay, hmsg])
  next hmsg =>
    rw [Bool.not_eq_false] at hmsg
    exact .of_withSlot (x := (s.enterAt .store idx).slotTrace) rfl
      (storeBody_ends (h.dropCode_eq_none_iff.2 hmsg) hmsg)

/-- After a stage that runs to its end the candidate goes on from what the stage leaves (R307). -/
theorem EndsCandidate.of_stage {body k : State → BodyResult} (hbody : IgnoresSlot body) {s w : State}
    (hdone : body s = .done (body s).out) (ph : Phase) (idx : Nat) (hdisp : w.disp = s.disp)
    (h : ∀ x, EndsCandidate (k ((body s).out.withSlot x)) (w.withSlot x)) :
    EndsCandidate ((body (s.enterAt ph idx)).andThen k) w := by
  have hseq := hbody.done hdone (s.enterAt ph idx).slotTrace
  have hnext : (body (s.enterAt ph idx)).andThen k =
      k ((body s).out.withSlot (s.enterAt ph idx).slotTrace) :=
    congrArg (BodyResult.andThen · k) hseq
  rw [hnext]
  exact .of_withSlot hdisp.symm (h _)

theorem decodeUnpack_ends (idx : Nat) {s : State} (h : s.valid.Chained) (hcw : s.valid.cwOk = true) :
    EndsCandidate (decodeUnpack idx s) (unpackGate s) := by
  unfold decodeUnpack
  split
  next hpay =>
    rw [unpackGate_of_not_payOk hpay]
    exact dropCandidate_ends (by simp [dropCode, hcw, hpay])
  next hpay =>
    rw [Bool.not_eq_false] at hpay
    obtain ⟨hdone, unpacked, hvalid⟩ := unpackBody_of_payOk hpay
    have hchain := chained_unpackGate h
    rw [unpackGate_of_payOk hpay] at hchain ⊢
    exact .of_stage ignoresSlot_unpackBody hdone .unpack idx (StageFrame.unpackBody s).disp fun x =>
      decodeStore_ends idx (s := (unpackBody s).out.withSlot x) hchain
        ((congrArg Valid.payOk hvalid).trans hpay)

theorem decodeCheck_ends (idx : Nat) {s : State} (h : s.valid.Chained) (hmsg : s.valid.msgOk = false)
    (hpay : s.valid.payOk = false) :
    EndsCandidate (decodeCheck idx s) (unpackGate (checkGate s)) := by
  unfold decodeCheck
  split
  next hcw =>
    rw [checkGate_of_not_cwOk hcw, unpackGate_of_not_payOk hpay]
    exact dropCandidate_ends (by simp [dropCode, hcw])
  next hcw =>
    rw [Bool.not_eq_false] at hcw
    have he := checkBody_of_cwOk hcw
    have hchain := (chained_checkGate h hmsg).1
    rw [checkGate_of_cwOk hcw] at hchain ⊢
    refine .of_stage ignoresSlot_checkBody (by rw [he]; rfl) .check idx
      ((StageFrame.checkBody s).trans (.unpackGate _)).disp fun x => ?_
    rw [← unpackGate_withSlot]
    exact decodeUnpack_ends idx (s := (checkBody s).out.withSlot x) hchain (by
      rw [he]
      exact hcw)

theorem BodyResult.andThen_assoc (r : BodyResult) (f k : State → BodyResult) :
    (r.andThen f).andThen k = r.andThen fun s => (f s).andThen k := by
  cases r <;> rfl

/-- A candidate in range goes through its stages (R307). -/
theorem decodeCandidate_ends {s : State} {idx : Nat} (h : s.Extractable idx) :
    EndsCandidate (decodeCandidate idx s) (candidateStages idx s) := by
  obtain ⟨hextract, hldpc, -, clean, hvalid⟩ := likelihoodStages_spec h
  have hchain : (likelihoodStages idx s).valid.Chained := hvalid ▸ Valid.chained_afterLdpc _ clean
  have hframe := StageFrame.candidateStages idx s
  rw [decodeCandidate, BodyResult.andThen_assoc]
  refine .of_stage (ignoresSlot_extractBody idx) hextract .extract idx hframe.disp fun x => ?_
  refine .of_stage ignoresSlot_ldpcBody ?_ .ldpc idx rfl fun y => ?_
  · rw [ignoresSlot_ldpcBody, hldpc]
    rfl
  · rw [ignoresSlot_ldpcBody, hldpc]
    have hdecode := decodeCheck_ends idx (s := (likelihoodStages idx s).withSlot y) hchain
      (congrArg Valid.msgOk hvalid) (congrArg Valid.payOk hvalid)
    rw [checkGate_withSlot, unpackGate_withSlot] at hdecode
    exact hdecode

/-! ### In the sequence of stage commands -/

/-- The trace after the completion of a command (R102). -/
def SlotTrace.completed (x : SlotTrace) : SlotTrace :=
  ⟨none, true, .ok, .idle, x.candIdx, x.disp⟩

theorem completeWith_withSlot_completed (s : State) (x : SlotTrace) (disp : List Disposition) :
    (s.withSlot { x.completed with disp := disp }).completeWith .ok =
      s.withSlot { x.completed with disp := disp } := rfl

/-- A stage command that runs to its end leaves its body's state, completed (R102). -/
theorem after_stage {i : Instr} {body : State → BodyResult} {ph : Phase} (hbody : IgnoresSlot body)
    (hi : ∀ s, commandBody i s = body (s.enter ph)) {s : State} (hdone : body s = .done (body s).out)
    (x : SlotTrace) : after i (s.withSlot x) = (body s).out.withSlot x.completed := by
  have hbody := hbody.done hdone ((s.withSlot x).enter ph).slotTrace
  have hcommand := (hi (s.withSlot x)).trans hbody
  rw [after_eq, hcommand]
  rfl

theorem after_checkGate (s : State) (x : SlotTrace) :
    (if (s.withSlot x.completed).valid.cwOk then after .check (s.withSlot x.completed)
      else s.withSlot x.completed) = (checkGate s).withSlot x.completed := by
  by_cases hcw : s.valid.cwOk = true
  · refine (if_pos hcw).trans ?_
    rw [checkGate_of_cwOk hcw, after_stage (i := .check) (ph := .check) ignoresSlot_checkBody
      (fun _ => rfl) (by rw [checkBody_of_cwOk hcw]; rfl)]
    rfl
  · refine (if_neg hcw).trans ?_
    rw [checkGate_of_not_cwOk (Bool.eq_false_iff.2 hcw)]

theorem after_unpackGate (s : State) (x : SlotTrace) :
    (if (s.withSlot x.completed).valid.payOk then after .unpack (s.withSlot x.completed)
      else s.withSlot x.completed) = (unpackGate s).withSlot x.completed := by
  by_cases hpay : s.valid.payOk = true
  · refine (if_pos hpay).trans ?_
    rw [unpackGate_of_payOk hpay, after_stage (i := .unpack) (ph := .unpack) ignoresSlot_unpackBody
      (fun _ => rfl) (unpackBody_of_payOk hpay).1]
    rfl
  · refine (if_neg hpay).trans ?_
    rw [unpackGate_of_not_payOk (Bool.eq_false_iff.2 hpay)]

/-- What STORE makes of `DISP` when it is issued only with `MSG_OK` set (R310). -/
def commandDisp (w : State) : List Disposition :=
  if w.valid.msgOk then w.disp.set w.curCand.toNat (storeOutcome w) else w.disp

theorem getElem?_commandDisp (w : State) {k : Nat} (hk : k ≠ w.curCand.toNat) :
    (commandDisp w)[k]? = w.disp[k]? := by
  rw [commandDisp]
  split
  · exact List.getElem?_set_ne hk.symm
  · rfl

theorem length_commandDisp (w : State) : (commandDisp w).length = w.disp.length := by
  rw [commandDisp]
  split
  · exact List.length_set
  · rfl

/-- The candidate's own disposition: its drop code, or what STORE wrote (R304, R307). -/
theorem candidateOutcome_eq_getD {w : State} (hw : w.valid.Chained) (hlt : w.curCand.toNat < w.disp.length) :
    candidateOutcome w =
      (dropCode w.valid).getD ((commandDisp w).getD w.curCand.toNat .none) := by
  cases hdrop : dropCode w.valid with
  | some d => rw [candidateOutcome, hdrop]; rfl
  | none =>
    rw [candidateOutcome, hdrop, commandDisp, if_pos (hw.dropCode_eq_none_iff.1 hdrop), getD_set _ hlt,
      if_pos rfl]

/-- STORE, issued only with `MSG_OK` set, keeps the record of the candidate (R290, R310). -/
theorem after_store {w : State} (h : w.valid.Chained) {x : SlotTrace} (hx : x.disp = w.disp) :
    (if (w.withSlot x.completed).valid.msgOk then after .store (w.withSlot x.completed)
      else w.withSlot x.completed) =
      (keepRecord w).withSlot { x.completed with disp := commandDisp w } := by
  rw [commandDisp, ← hx]
  by_cases hmsg : w.valid.msgOk = true
  · have hstore := storeBody_eq (s := (w.withSlot x.completed).enter .store)
      (h.dropCode_eq_none_iff.2 hmsg) hmsg
    have hcommand : commandBody .store (w.withSlot x.completed) = _ := hstore
    refine (if_pos hmsg).trans ?_
    rw [after_eq, hcommand, if_pos hmsg]
    rfl
  · have hne : candidateOutcome w ≠ .stored := fun hs =>
      hmsg (h.dropCode_eq_none_iff.1 (passed_of_stored hs).1)
    refine (if_neg hmsg).trans ?_
    rw [keepRecord_of_ne_stored hne, if_neg hmsg]
    rfl

/-- The stage commands of a candidate in range (R310). -/
theorem candidateByCommands_eq {s : State} {idx : Nat} (h : s.Extractable idx) :
    candidateByCommands s idx = (keepRecord (candidateStages idx s)).withSlot
      { s.slotTrace.completed with disp := commandDisp (candidateStages idx s) } := by
  obtain ⟨hextract, hldpc, -, -⟩ := likelihoodStages_spec h
  have hstages : after .ldpc (after (.extract idx) s) =
      (likelihoodStages idx s).withSlot s.slotTrace.completed := by
    have he := after_stage (i := .extract idx) (ph := .extract) (ignoresSlot_extractBody idx)
      (fun _ => rfl) hextract s.slotTrace
    rw [State.withSlot_slotTrace] at he
    rw [he, after_stage (i := .ldpc) (ph := .ldpc) ignoresSlot_ldpcBody (fun _ => rfl) (by rw [hldpc]; rfl)]
    rfl
  have hdisp : s.slotTrace.disp = (candidateStages idx s).disp :=
    (StageFrame.candidateStages idx s).disp.symm
  unfold candidateByCommands
  dsimp only
  rw [hstages, after_checkGate, after_unpackGate]
  exact after_store (chained_candidateStages h) hdisp

end Sys2Proof.Machine
end

section
/-! DECODE as a loop over candidates in range, and as the sequence of stage commands (R307, R310). -/

namespace Sys2Proof.Machine

open Sys2Proof

/-! ### The candidates of SYNC are in range -/

/-- A position that SYNC searches is in range (R141, R162). -/
theorem inRange_candidateAt {s : State} (h : s.cfg.legal = true) {fs t f : Nat}
    (hpos : (fs, t, f) ∈ searchPositions s.cfg) : inRange s.cfg (candidateAt s (fs, t, f)) = true := by
  obtain ⟨-, hbins, -, -, -, hrows, -, -⟩ := Config.bounds_of_legal h
  obtain ⟨-, ht, hf⟩ := mem_searchPositions.1 hpos
  have htime : (candidateAt s (fs, t, f)).timeOffset.toInt = t := by
    have hsmall : t < 2 ^ 16 := by omega
    rw [candidateAt, BitVec.toInt_eq_toNat_of_lt] <;> rw [BitVec.toNat_ofNat, Nat.mod_eq_of_lt hsmall]
    omega
  have hfreq : (candidateAt s (fs, t, f)).freqOffset.toNat = f :=
    toNat_ofNat_of_lt (n := 16) (x := f) (by omega)
  rw [inRange_iff, htime, hfreq]
  omega

theorem syncBody_done (s : State) : syncBody s = .done (syncBody s).out := rfl

/-- Where SYNC runs in DECODE, on an empty result store (R307, R308). -/
def slotEntry (s : State) : State := { s with res := [] }.enterAt .sync 0

/-- Where the loop of DECODE starts: an empty result store and the candidates of SYNC (R307). -/
def slotStart (s : State) : State := (syncBody (slotEntry s)).out

theorem slotStart_res (s : State) : (slotStart s).res = [] := rfl

theorem slotStart_disp (s : State) : (slotStart s).disp = List.replicate s.cfg.candCap .none := rfl

theorem slotStart_cl (s : State) : (slotStart s).cl =
    syncKept (slotEntry s) ++
      List.replicate (s.cfg.candCap - (syncKept (slotEntry s)).length) Candidate.zero := rfl

theorem slotStart_candCount (s : State) : (slotStart s).candCount =
    BitVec.ofNat 7 (syncKept (slotEntry s)).length := rfl

theorem slotStart_frame (s : State) : EngineFrame s (slotStart s) := by constructor <;> rfl

theorem toNat_slotStart_candCount (s : State) :
    (slotStart s).candCount.toNat = (syncKept (slotEntry s)).length := by
  have hlen := length_syncKept_le (slotEntry s)
  rw [slotStart_candCount]
  exact toNat_ofNat_of_lt (hlen.trans_lt s.maxCand.isLt)

theorem slotStart_candCount_le {s : State} (h : s.Inv) : (slotStart s).candCount.toNat ≤ s.cfg.candCap := by
  rw [toNat_slotStart_candCount]
  exact (length_syncKept_le _).trans h.maxCand

theorem slotStart_extractable {s : State} (h : s.Inv) {idx : Nat}
    (hidx : idx < (slotStart s).candCount.toNat) : (slotStart s).Extractable idx := by
  refine ⟨hidx, ?_⟩
  rw [toNat_slotStart_candCount] at hidx
  have hcand : (slotStart s).candidate idx = (syncKept (slotEntry s))[idx] := by
    rw [State.candidate, slotStart_cl, List.getD_append _ _ _ _ hidx, List.getD_eq_getElem _ _ hidx]
  obtain ⟨fs, t, f, hpos, -, hat⟩ := mem_qualifying.1 (mem_syncKept (List.getElem_mem hidx))
  rw [hcand, ← hat]
  exact inRange_candidateAt h.legal hpos

/-! ### The loop of DECODE -/

/-- The state of DECODE after its first `n` candidates. -/
def decodedUpTo (s : State) (n : Nat) : State := (decodeLoop (List.range n) (slotStart s)).out

theorem decodedUpTo_zero (s : State) : decodedUpTo s 0 = slotStart s := rfl

theorem SlotFrame.keepRecord (s : State) : SlotFrame s (keepRecord s) :=
  ⟨by constructor <;> rfl, rfl, rfl, rfl⟩

theorem SlotFrame.endsCandidate (idx : Nat) (s : State) (x : SlotTrace) :
    SlotFrame s ((Machine.keepRecord (candidateStages idx s)).withSlot x) :=
  ((StageFrame.candidateStages idx s).toSlotFrame.trans (.keepRecord _)).trans (.withSlot x _)

/-- The dispositions of DECODE and of its sequence of stage commands after `n` candidates. -/
structure DispsAgree (s : State) (n : Nat) : Prop where
  lengthDecoded : (decodedUpTo s n).disp.length = s.cfg.candCap
  lengthCommands : (commandsUpTo s n).disp.length = s.cfg.candCap
  passed : ∀ k < n, (decodedUpTo s n).disp[k]? = some
    ((dropCode (commandsUpTo s (k + 1)).valid).getD ((commandsUpTo s n).disp.getD k .none))
  beyond : ∀ k, n ≤ k → (decodedUpTo s n).disp[k]? = (commandsUpTo s n).disp[k]?

/-- The body of DECODE is the loop from its start, and a last move of `SEQ` (R307). -/
theorem decodeBody_eq (s : State) :
    decodeBody s = (decodeLoop (List.range (slotStart s).candCount.toNat) (slotStart s)).andThen
      fun t => .done (t.enterAt .idle t.candCount.toNat) := by
  have hseq : State.enterAt .sync 0 { s.enterAt .clear 0 with res := [] } = slotEntry s := rfl
  rw [decodeBody, clrresBody, BodyResult.andThen_done, hseq, syncBody_done, ← slotStart,
    BodyResult.andThen_done]

section
variable {s : State} (h : s.Inv)
include h

/-- The loop runs through the listed candidates without an error (R307, R321). -/
theorem decodeLoop_range {n : Nat} (hn : n ≤ (slotStart s).candCount.toNat) :
    decodeLoop (List.range n) (slotStart s) = .done (decodedUpTo s n) ∧
      SlotFrame (slotStart s) (decodedUpTo s n) := by
  induction n with
  | zero => exact ⟨rfl, .refl _⟩
  | succ n ih =>
    obtain ⟨hloop, hframe⟩ := ih (Nat.le_of_succ_le hn)
    obtain ⟨x, -, hend⟩ := decodeCandidate_ends (hframe.extractable (slotStart_extractable h hn))
    have hnext : decodeLoop (List.range (n + 1)) (slotStart s) = decodeCandidate n (decodedUpTo s n) := by
      rw [List.range_succ, decodeLoop_append, hloop, BodyResult.andThen_done]
    rw [decodedUpTo, hnext, hend]
    exact ⟨rfl, hframe.trans (.endsCandidate n _ x)⟩

theorem decodedUpTo_frame {n : Nat} (hn : n ≤ (slotStart s).candCount.toNat) :
    SlotFrame (slotStart s) (decodedUpTo s n) := (decodeLoop_range h hn).2

/-- What one more candidate leaves (R307). -/
theorem decodedUpTo_succ {n : Nat} (hn : n < (slotStart s).candCount.toNat) :
    ∃ x : SlotTrace,
      x.disp = (decodedUpTo s n).disp.set n
        (candidateOutcome (candidateStages n (decodedUpTo s n))) ∧
      decodedUpTo s (n + 1) = (keepRecord (candidateStages n (decodedUpTo s n))).withSlot x := by
  have hext := (decodedUpTo_frame h hn.le).extractable (slotStart_extractable h hn)
  obtain ⟨x, hx, hend⟩ := decodeCandidate_ends hext
  have hcur := toNat_ofNat_of_lt (n := 7) (hn.trans (slotStart s).candCount.isLt)
  rw [candidateStages_curCand hext, hcur, (StageFrame.candidateStages n _).disp] at hx
  refine ⟨x, hx, ?_⟩
  rw [decodedUpTo, List.range_succ, decodeLoop_append, (decodeLoop_range h hn.le).1,
    BodyResult.andThen_done, hend]
  rfl

/-- DECODE completes after its last candidate (R307, R309). -/
theorem exec_decode : exec .decode s =
    .next (((decodedUpTo s (slotStart s).candCount.toNat).enterAt .idle
      (slotStart s).candCount.toNat).completeWith .ok) := by
  obtain ⟨hloop, hframe⟩ := decodeLoop_range h le_rfl
  have hexec : exec .decode s = (decodeBody s).finish := rfl
  rw [hexec, decodeBody_eq, hloop, BodyResult.andThen_done, hframe.candCount, BodyResult.finish_done]

/-! ### The sequence of stage commands -/

theorem extractable_of_decodedUpTo {n : Nat} (hn : n < (slotStart s).candCount.toNat) {u : State}
    {x : SlotTrace} (hu : decodedUpTo s n = u.withSlot x) : u.Extractable n := by
  have ht := (decodedUpTo_frame h hn.le).extractable (slotStart_extractable h hn)
  rw [hu] at ht
  exact ⟨ht.listed, ht.inRange⟩

/-- DECODE and its sequence of stage commands agree but for their traces (R310). -/
theorem decodedUpTo_eq_withSlot {n : Nat} (hn : n ≤ (slotStart s).candCount.toNat) :
    ∃ x, decodedUpTo s n = (commandsUpTo s n).withSlot x := by
  induction n with
  | zero => exact ⟨(slotStart s).slotTrace, rfl⟩
  | succ n ih =>
    obtain ⟨y, hy⟩ := ih (Nat.le_of_succ_le hn)
    obtain ⟨x, -, hnext⟩ := decodedUpTo_succ h hn
    have hext := extractable_of_decodedUpTo h hn hy
    refine ⟨x, ?_⟩
    rw [hnext, commandsUpTo_succ, candidateByCommands_eq hext, hy, candidateStages_withSlot,
      keepRecord_withSlot, State.withSlot_withSlot, State.withSlot_withSlot]

theorem commandsUpTo_extractable {n : Nat} (hn : n < (slotStart s).candCount.toNat) :
    (commandsUpTo s n).Extractable n := by
  obtain ⟨x, hx⟩ := decodedUpTo_eq_withSlot h hn.le
  exact extractable_of_decodedUpTo h hn hx

/-- Every command of the sequence completes with `ERR = 0` (R310, R321). -/
theorem commandsUpTo_completed {n : Nat} (hn : n ≤ (slotStart s).candCount.toNat) :
    (commandsUpTo s n).completeWith .ok = commandsUpTo s n := by
  cases n with
  | zero => rfl
  | succ n =>
    rw [commandsUpTo_succ, candidateByCommands_eq (commandsUpTo_extractable h hn),
      completeWith_withSlot_completed]

/-! ### The dispositions -/

/-- What one more candidate leaves when its stage commands are issued (R310). -/
theorem commandsUpTo_succ_eq {n : Nat} (hn : n < (slotStart s).candCount.toNat) :
    ∃ w, w.valid.Chained ∧ w.disp = (commandsUpTo s n).disp ∧ w.curCand.toNat = n ∧
      (decodedUpTo s (n + 1)).disp = (decodedUpTo s n).disp.set n (candidateOutcome w) ∧
      (commandsUpTo s (n + 1)).valid = w.valid ∧ (commandsUpTo s (n + 1)).disp = commandDisp w := by
  have hext := commandsUpTo_extractable h hn
  obtain ⟨y, hy⟩ := decodedUpTo_eq_withSlot h hn.le
  obtain ⟨x, hx, hnext⟩ := decodedUpTo_succ h hn
  have hcur := toNat_ofNat_of_lt (n := 7) (hn.trans (slotStart s).candCount.isLt)
  refine ⟨candidateStages n (commandsUpTo s n), chained_candidateStages hext,
    (StageFrame.candidateStages n _).disp, ?_, ?_, ?_, ?_⟩
  · rw [candidateStages_curCand hext, hcur]
  · have hsame : candidateOutcome (candidateStages n (decodedUpTo s n)) =
        candidateOutcome (candidateStages n (commandsUpTo s n)) := by
      rw [hy, candidateStages_withSlot]
      rfl
    rw [hnext, State.withSlot_disp, ← hsame, ← hx]
  · rw [commandsUpTo_succ, candidateByCommands_eq hext, State.withSlot_valid, keepRecord_valid]
  · rw [commandsUpTo_succ, candidateByCommands_eq hext, State.withSlot_disp]

theorem dispsAgree {n : Nat} (hn : n ≤ (slotStart s).candCount.toNat) : DispsAgree s n := by
  induction n with
  | zero =>
    exact ⟨List.length_replicate, List.length_replicate, fun _ hk => absurd hk (Nat.not_lt_zero _),
      fun _ _ => rfl⟩
  | succ n ih =>
    obtain ⟨hlenD, hlenC, hpassed, hbeyond⟩ := ih (Nat.le_of_succ_le hn)
    obtain ⟨w, hchain, hdisp, hcur, hdecoded, hvalid, hcommands⟩ := commandsUpTo_succ_eq h hn
    have hlt : n < s.cfg.candCap := Nat.lt_of_lt_of_le hn (slotStart_candCount_le h)
    have hother (k : Nat) (hk : k ≠ n) :
        (commandsUpTo s (n + 1)).disp[k]? = (commandsUpTo s n).disp[k]? := by
      rw [hcommands, getElem?_commandDisp w (hcur ▸ hk), hdisp]
    refine ⟨?_, ?_, fun k hk => ?_, fun k hk => ?_⟩
    · rw [hdecoded, List.length_set, hlenD]
    · rw [hcommands, length_commandDisp, hdisp, hlenC]
    · rw [hdecoded]
      rcases Nat.lt_succ_iff_lt_or_eq.1 hk with hk | rfl
      · rw [List.getElem?_set_ne hk.ne', hpassed k hk, List.getD_eq_getElem?_getD,
          List.getD_eq_getElem?_getD, hother k hk.ne]
      · rw [List.getElem?_set_self (hlenD ▸ hlt), hvalid, hcommands, candidateOutcome_eq_getD hchain, hcur]
        rw [hcur, hdisp, hlenC]
        exact hlt
    · rw [hdecoded, List.getElem?_set_ne (Nat.ne_of_lt hk), hother k (Nat.ne_of_gt hk),
        hbeyond k (Nat.le_of_succ_le hk)]

end

/-- `t` is `u` but for a trace, and both are completed: then they differ in `CAND_IDX` and `DISP`. -/
theorem completed_eq {t u : State} {x : SlotTrace} (ht : t = u.withSlot x)
    (hu : u.completeWith .ok = u) (k : Nat) :
    (t.enterAt .idle k).completeWith .ok =
      { u with candIdx := BitVec.ofNat 7 k, disp := t.disp } := by
  subst ht
  have hrun : (((u.withSlot x).enterAt .idle k).completeWith .ok) =
      { u.completeWith .ok with candIdx := BitVec.ofNat 7 k, disp := x.disp } := rfl
  rw [hrun, hu]
  rfl

theorem slotByCommands_eq (s : State) :
    slotByCommands s = commandsUpTo s (slotStart s).candCount.toNat := rfl

/-- Settles O49: DECODE and its sequence of stage commands run the same stages on every candidate. -/
theorem decodeIsTheSequenceOfStageCommands : Obligations.DecodeIsTheSequenceOfStageCommands := by
  intro s h
  have hexec := exec_decode h
  obtain ⟨x, hx⟩ := decodedUpTo_eq_withSlot h le_rfl
  obtain ⟨hlenD, hlenC, hpassed, hbeyond⟩ := dispsAgree h le_rfl
  have hcount : (commandsUpTo s (slotStart s).candCount.toNat).candCount = (slotStart s).candCount := by
    have hframe := decodedUpTo_frame h le_rfl
    have hcand := hframe.candCount
    rw [hx, State.withSlot_candCount] at hcand
    exact hcand
  have hstate := completed_eq hx (commandsUpTo_completed h le_rfl) (slotStart s).candCount.toNat
  rw [BitVec.ofNat_toNat, BitVec.setWidth_eq] at hstate
  rw [slotByCommands_eq]
  generalize decodedUpTo s (slotStart s).candCount.toNat = d at *
  generalize commandsUpTo s (slotStart s).candCount.toNat = u at *
  rw [← hcount] at hexec hstate hpassed hbeyond
  exact ⟨_, hexec, rfl, ⟨hstate, hlenD.trans hlenC.symm, hpassed, hbeyond⟩,
    (EngineFrame.exec hexec).pmCell⟩

end Sys2Proof.Machine
end

section
/-! What DECODE accounts for (R311): its records and dispositions candidate by candidate, and the payload
and message of every record. -/

namespace Sys2Proof.Machine

open Sys2Proof

/-! ### Records and dispositions -/

/-- The dispositions and records of the first `n` candidates of a slot account for each other (R311). -/
structure SlotAccount (n : Nat) (disp : List Disposition) (res : List Record) : Prop where
  room : res.length ≤ 6
  perCandidate : res.length ≤ n
  stored : disp.count .stored = res.length
  outcomes : ∀ k d, disp[k]? = some d → (d = .none ↔ n ≤ k)
  listed : ∀ r ∈ res, r.cand.toNat < n
  order : (res.map fun r => r.cand.toNat).Pairwise (· < ·)
  texts : (res.map fun r => assembled r.msg).Nodup

theorem slotAccount_zero (cap : Nat) : SlotAccount 0 (List.replicate cap .none) [] where
  room := Nat.zero_le _
  perCandidate := le_rfl
  stored := by simp [List.count_replicate]
  outcomes k d hd := by
    have := (List.mem_replicate.1 (List.mem_of_getElem? hd)).2
    simp [this]
  listed _ hr := nomatch hr
  order := .nil
  texts := .nil

section
variable {n : Nat} {disp : List Disposition} {res : List Record} (h : SlotAccount n disp res)
  (hn : n < disp.length)
include h hn

/-- The disposition of the next candidate (R303). -/
theorem SlotAccount.outcomes_set {d : Disposition} (hd : d ≠ .none) (k : Nat) (e : Disposition)
    (he : (disp.set n d)[k]? = some e) : e = .none ↔ n + 1 ≤ k := by
  by_cases hk : k = n
  · subst hk
    rw [List.getElem?_set_self hn, Option.some.injEq] at he
    subst he
    exact iff_of_false hd (Nat.not_succ_le_self k)
  · rw [List.getElem?_set_ne (Ne.symm hk)] at he
    rw [h.outcomes k e he]
    omega

theorem SlotAccount.count_set (d : Disposition) :
    (disp.set n d).count .stored = res.length + if d = .stored then 1 else 0 := by
  have hnone : disp[n] = .none := (h.outcomes n _ (List.getElem?_eq_getElem hn)).2 le_rfl
  rw [List.count_set hn, hnone, h.stored]
  simp

/-- A candidate that is not stored. -/
theorem SlotAccount.drop {d : Disposition} (hd : d ≠ .none) (hs : d ≠ .stored) :
    SlotAccount (n + 1) (disp.set n d) res :=
  { h with
    perCandidate := Nat.le_succ_of_le h.perCandidate
    stored := by rw [h.count_set hn, if_neg hs, Nat.add_zero]
    outcomes := h.outcomes_set hn hd
    listed := fun r hr => Nat.lt_succ_of_lt (h.listed r hr) }

/-- A candidate that is stored: there is room for its record, and its text is new (R292, R293). -/
theorem SlotAccount.store {r : Record} (hroom : res.length ≠ 6) (hcand : r.cand.toNat = n)
    (hnew : ∀ e ∈ res, assembled e.msg ≠ assembled r.msg) :
    SlotAccount (n + 1) (disp.set n .stored) (res ++ [r]) where
  room := by
    rw [List.length_append, List.length_singleton]
    exact Nat.lt_of_le_of_ne h.room hroom
  perCandidate := by
    rw [List.length_append, List.length_singleton]
    exact Nat.succ_le_succ h.perCandidate
  stored := by rw [h.count_set hn, if_pos rfl, List.length_append, List.length_singleton]
  outcomes := h.outcomes_set hn (by decide)
  listed e he := by
    rcases List.mem_append.1 he with he | he
    · exact Nat.lt_succ_of_lt (h.listed e he)
    · rw [List.mem_singleton.1 he, hcand]
      exact Nat.lt_succ_self n
  order := by
    rw [List.map_append, List.pairwise_append]
    refine ⟨h.order, List.pairwise_singleton _ _, fun a ha b hb => ?_⟩
    obtain ⟨e, he, rfl⟩ := List.mem_map.1 ha
    rw [(List.mem_singleton.1 hb).trans hcand]
    exact h.listed e he
  texts := by
    rw [List.map_append, List.nodup_append]
    refine ⟨h.texts, List.nodup_singleton _, fun a ha b hb => ?_⟩
    obtain ⟨e, he, rfl⟩ := List.mem_map.1 ha
    rw [List.mem_singleton.1 hb]
    exact hnew e he

end

/-- DECODE keeps the account, candidate by candidate (R311). -/
theorem decodedUpTo_account {s : State} (h : s.Inv) {n : Nat}
    (hn : n ≤ (slotStart s).candCount.toNat) :
    SlotAccount n (decodedUpTo s n).disp (decodedUpTo s n).res := by
  induction n with
  | zero => exact slotAccount_zero s.cfg.candCap
  | succ n ih =>
    have hacc := ih (Nat.le_of_succ_le hn)
    have hlt : n < (decodedUpTo s n).disp.length := by
      rw [(dispsAgree h (Nat.le_of_succ_le hn)).lengthDecoded]
      exact Nat.lt_of_lt_of_le hn (slotStart_candCount_le h)
    obtain ⟨x, hx, hnext⟩ := decodedUpTo_succ h hn
    have hres := (StageFrame.candidateStages n (decodedUpTo s n)).res
    rw [hnext, State.withSlot_disp, State.withSlot_res, hx]
    by_cases hstored : candidateOutcome (candidateStages n (decodedUpTo s n)) = .stored
    · have hext := (decodedUpTo_frame h (Nat.le_of_succ_le hn)).extractable (slotStart_extractable h hn)
      have hcur := toNat_ofNat_of_lt (n := 7) (Nat.lt_of_lt_of_le hn (slotStart s).candCount.isLt.le)
      obtain ⟨-, hnew, hroom⟩ := passed_of_stored hstored
      rw [isDuplicate_eq_false_iff, hres] at hnew
      rw [hres] at hroom
      rw [keepRecord, if_pos hstored, hstored, hres]
      exact hacc.store hlt hroom (by rw [candidateStages_curCand hext]; exact hcur) hnew
    · rw [keepRecord_of_ne_stored hstored, hres]
      exact hacc.drop hlt (candidateOutcome_ne_none _) hstored

/-! ### Payloads and messages -/

/-- The message in `MSG`, and that of every record, is what its payload unpacks to against the table `ht`
(R204, R215, R294). -/
structure UnpackedWith (ht : List Slot) (s : State) : Prop where
  table : s.ht = ht
  message : s.valid.msgOk = true → unpackMessage ht (message77 s.a91) = .ok s.msg
  records : ∀ r ∈ s.res, unpackMessage ht (message77 r.a91) = .ok r.msg

section
variable {ht : List Slot} {s : State} (h : UnpackedWith ht s)
include h

theorem UnpackedWith.extractBody (idx : Nat) : UnpackedWith ht (extractBody idx s).out := by
  rcases extractBody_cases idx s with ⟨-, e⟩ | ⟨-, -, e⟩ | ⟨-, -, e⟩ <;> rw [e]
  · exact h
  · exact h
  · exact { h with message := fun hf => nomatch hf }

theorem UnpackedWith.ldpcBody : UnpackedWith ht (ldpcBody s).out := by
  rcases ldpcBody_cases s with ⟨-, e⟩ | ⟨-, e⟩ <;> rw [e]
  · exact h
  · exact { h with message := fun hf => nomatch hf }

theorem UnpackedWith.checkBody : UnpackedWith ht (checkBody s).out := by
  rcases checkBody_cases s with ⟨-, e⟩ | ⟨-, e⟩ <;> rw [e]
  · exact h
  · exact { h with message := fun hf => nomatch hf }

theorem UnpackedWith.unpackBody : UnpackedWith ht (unpackBody s).out := by
  rcases unpackBody_cases s with ⟨-, e⟩ | ⟨-, _, -, e⟩ | ⟨-, m, hm, e⟩ <;> rw [e]
  · exact h
  · exact { h with message := fun hf => nomatch hf }
  · exact ⟨h.table, fun _ => h.table ▸ hm, h.records⟩

/-- STORE takes the payload and the message for its record (R294). -/
theorem UnpackedWith.storeBody : UnpackedWith ht (storeBody s).out := by
  rcases storeBody_cases s with ⟨-, e⟩ | ⟨-, -, e⟩ | ⟨-, -, -, e⟩ | ⟨hmsg, -, -, e⟩ <;> rw [e]
  · exact h
  · exact ⟨h.table, h.message, h.records⟩
  · exact ⟨h.table, h.message, h.records⟩
  · refine ⟨h.table, h.message, fun r hr => ?_⟩
    rcases List.mem_append.1 hr with hr | hr
    · exact h.records r hr
    · rw [List.mem_singleton.1 hr]
      exact h.message hmsg

theorem UnpackedWith.decodeCandidate (idx : Nat) : UnpackedWith ht (decodeCandidate idx s).out :=
  decodeCandidate_keeps idx (fun _ _ hu => ⟨hu.table, hu.message, hu.records⟩)
    (fun _ _ hu => ⟨hu.table, hu.message, hu.records⟩) (fun _ hu => hu.extractBody idx)
    (fun _ hu => hu.ldpcBody) (fun _ hu => hu.checkBody) (fun _ hu => hu.unpackBody)
    (fun _ hu => hu.storeBody) h

end

theorem State.Accepted.decodeCandidate {s : State} (h : s.Accepted) (idx : Nat) :
    (decodeCandidate idx s).out.Accepted :=
  decodeCandidate_keeps idx (fun ph _ ht => ht.enterAt ph idx) (fun d _ ht => ht.setDisp _ d)
    (fun _ ht => ht.extractBody idx) (fun _ ht => ht.ldpcBody) (fun _ ht => ht.checkBody)
    (fun _ ht => ht.unpackBody) (fun _ ht => ht.storeBody) h

/-- SYNC clears every flag and the store is empty, so DECODE starts with nothing accepted (R307). -/
theorem slotStart_accepted (s : State) : (slotStart s).Accepted where
  codeword hf := nomatch hf
  payload hf := nomatch hf
  message hf := nomatch hf
  records _ hr := nomatch hr

theorem slotStart_unpackedWith (s : State) : UnpackedWith s.ht (slotStart s) :=
  ⟨rfl, (fun hf => nomatch hf), fun _ hr => nomatch hr⟩

theorem decodedUpTo_accepted (s : State) (n : Nat) : (decodedUpTo s n).Accepted :=
  decodeLoop_keeps _ (fun idx _ _ ht => ht.decodeCandidate idx) (slotStart_accepted s)

theorem decodedUpTo_unpackedWith (s : State) (n : Nat) : UnpackedWith s.ht (decodedUpTo s n) :=
  decodeLoop_keeps _ (fun idx _ _ hu => hu.decodeCandidate idx) (slotStart_unpackedWith s)

/-- Settles O50: the account after the last candidate, and the payloads of the records. -/
theorem decodeAccountsForEveryCandidate : Obligations.DecodeAccountsForEveryCandidate := by
  intro s t h hexec
  have hacc := decodedUpTo_account h le_rfl
  have hframe := decodedUpTo_frame h le_rfl
  have haccepted := decodedUpTo_accepted s (slotStart s).candCount.toNat
  have hunpacked := decodedUpTo_unpackedWith s (slotStart s).candCount.toNat
  have hcfg : (decodedUpTo s (slotStart s).candCount.toNat).cfg = s.cfg :=
    hframe.cfg.trans (slotStart_frame s).cfg
  have hcount := hframe.candCount
  have ht := Host.Outcome.next.inj (hexec.symm.trans (exec_decode h))
  generalize decodedUpTo s (slotStart s).candCount.toNat = d at *
  subst ht
  rw [← hcount] at hacc
  exact ⟨le_min hacc.room hacc.perCandidate, hacc.stored, hacc.outcomes, hacc.order, hacc.texts,
    fun r hr => ⟨hcfg ▸ (haccepted.records r hr).1, hunpacked.records r hr⟩⟩

end Sys2Proof.Machine
end

section
/-! DECODE depends on nothing but its inputs (R312): two states with the same inputs go through the slot
side by side. -/

namespace Sys2Proof.Machine

open Sys2Proof

/-! ### SYNC -/

theorem pmAt_congr {s s' : State} (hcfg : s'.cfg = s.cfg) (hpm : ∀ c, s'.pmCell c = s.pmCell c) :
    s'.pmAt = s.pmAt := by
  funext row fs bin
  rw [State.pmAt, State.pmAt, hcfg, hpm]

/-- The scores of SYNC are a function of the matrix and `SYNC_MAP` (R142). -/
theorem syncScore_congr {s s' : State} (hcfg : s'.cfg = s.cfg) (hpm : ∀ c, s'.pmCell c = s.pmCell c)
    (hmap : s'.syncMap = s.syncMap) : syncScore s' = syncScore s := by
  funext fs t f
  simp only [syncScore, syncAcc, syncTerm, toneSum, pmAt_congr hcfg hpm, hcfg, hmap]

/-- The list of SYNC is a function of its inputs (R140). -/
theorem syncKept_congr {s s' : State} (hcfg : s'.cfg = s.cfg) (hpm : ∀ c, s'.pmCell c = s.pmCell c)
    (hmin : s'.minScore = s.minScore) (hmax : s'.maxCand = s.maxCand) (hmap : s'.syncMap = s.syncMap) :
    syncKept s' = syncKept s := by
  have hscore := syncScore_congr hcfg hpm hmap
  have hcand : candidateAt s' = candidateAt s := by
    funext pos
    rw [candidateAt, candidateAt, hscore]
  rw [syncKept, syncKept, qualifying, qualifying, hcfg, hmin, hmax, hscore, hcand]

/-! ### The stages of a candidate -/

/-- The same inputs of the loop of DECODE: what it reads and does not write (R312), and the list that SYNC
made of the other inputs. -/
structure SameInputs (s s' : State) : Prop where
  cfg : s'.cfg = s.cfg
  pmCell : ∀ c, s'.pmCell c = s.pmCell c
  maxIter : s'.maxIter = s.maxIter
  grayMap : s'.grayMap = s.grayMap
  baseBin : s'.baseBin = s.baseBin
  ht : s'.ht = s.ht
  cl : s'.cl = s.cl
  candCount : s'.candCount = s.candCount

/-- Side by side in a candidate, every buffer that a set flag stands for is the same too (R28). -/
structure SameStage (s s' : State) : Prop extends SameInputs s s' where
  valid : s'.valid = s.valid
  curCand : s'.curCand = s.curCand
  hard : s.valid.cwOk = true → s'.hard = s.hard
  a91 : s.valid.payOk = true → s'.a91 = s.a91
  msg : s.valid.msgOk = true → s'.msg = s.msg

/-- What both sides keep, they keep the same. -/
theorem SameInputs.of_frames {s s' t t' : State} (h : SameInputs s s') (hs : SlotFrame s t)
    (hs' : SlotFrame s' t') : SameInputs t t' where
  cfg := by rw [hs'.cfg, h.cfg, hs.cfg]
  pmCell c := by rw [hs'.pmCell, h.pmCell, hs.pmCell]
  maxIter := by rw [hs'.maxIter, h.maxIter, hs.maxIter]
  grayMap := by rw [hs'.grayMap, h.grayMap, hs.grayMap]
  baseBin := by rw [hs'.baseBin, h.baseBin, hs.baseBin]
  ht := by rw [hs'.ht, h.ht, hs.ht]
  cl := by rw [hs'.cl, h.cl, hs.cl]
  candCount := by rw [hs'.candCount, h.candCount, hs.candCount]

section
variable {s s' : State}

theorem SameInputs.candidate (h : SameInputs s s') (idx : Nat) : s'.candidate idx = s.candidate idx := by
  rw [State.candidate, State.candidate, h.cl]

theorem SameInputs.extractable (h : SameInputs s s') {idx : Nat} (hs : s.Extractable idx) :
    s'.Extractable idx where
  listed := by rw [h.candCount]; exact hs.listed
  inRange := by rw [h.candidate, h.cfg]; exact hs.inRange

/-- The likelihood values are a function of the inputs and the candidate (R160). -/
theorem SameInputs.llrValues (h : SameInputs s s') (c : Candidate) : llrValues s' c = llrValues s c := by
  have hpower : groupPower s' c = groupPower s c := by
    funext d j
    rw [groupPower, groupPower, pmAt_congr h.cfg h.pmCell, h.cfg, h.grayMap]
  rw [Machine.llrValues, Machine.llrValues, hpower]

/-- The run of LDPC is a function of `LLR`, `MAX_ITER` and `H` (R175). -/
theorem SameInputs.ldpcOutcome (h : SameInputs s s') (hllr : s'.llr = s.llr) :
    s'.ldpcOutcome = s.ldpcOutcome := by
  simp only [State.ldpcOutcome, State.channelValues, State.llrAt, h.cfg, h.maxIter, hllr]

/-- EXTRACT of the same candidate, side by side (R160). -/
theorem SameInputs.extractBody (h : SameInputs s s') {idx : Nat} (hs : s.Extractable idx) :
    SameInputs (extractBody idx s).out (extractBody idx s').out ∧
      (extractBody idx s).out.valid = Valid.afterExtract ∧
      (extractBody idx s').out.valid = Valid.afterExtract ∧
      (extractBody idx s').out.curCand = (extractBody idx s).out.curCand ∧
      (extractBody idx s').out.llr = (extractBody idx s).out.llr := by
  have hframes := h.of_frames (StageFrame.extractBody idx s).toSlotFrame
    (StageFrame.extractBody idx s').toSlotFrame
  rw [extractBody_of_extractable hs, extractBody_of_extractable (h.extractable hs)] at hframes ⊢
  exact ⟨hframes, rfl, rfl, rfl, (h.llrValues _).trans (congrArg _ (h.candidate idx))⟩

/-- LDPC on the same `LLR`, side by side (R175). -/
theorem SameInputs.ldpcBody (h : SameInputs s s') (hvalid : s.valid = Valid.afterExtract)
    (hvalid' : s'.valid = Valid.afterExtract) (hcur : s'.curCand = s.curCand) (hllr : s'.llr = s.llr) :
    SameStage (ldpcBody s).out (ldpcBody s').out := by
  have hframes := h.of_frames (StageFrame.ldpcBody s).toSlotFrame (StageFrame.ldpcBody s').toSlotFrame
  rw [ldpcBody_of_llrRdy (by rw [hvalid]; rfl), ldpcBody_of_llrRdy (by rw [hvalid']; rfl),
    h.ldpcOutcome hllr, hvalid, hvalid'] at hframes ⊢
  exact ⟨hframes, rfl, hcur, fun _ => rfl, (fun hf => nomatch hf), fun hf => nomatch hf⟩

theorem SameInputs.likelihoodStages (h : SameInputs s s') {idx : Nat} (hs : s.Extractable idx) :
    SameStage (likelihoodStages idx s) (likelihoodStages idx s') := by
  obtain ⟨hinputs, hvalid, hvalid', hcur, hllr⟩ := h.extractBody hs
  exact hinputs.ldpcBody hvalid hvalid' hcur hllr

theorem SameStage.checkGate (h : SameStage s s') : SameStage (checkGate s) (checkGate s') := by
  have hframes := h.toSameInputs.of_frames (StageFrame.checkGate s).toSlotFrame
    (StageFrame.checkGate s').toSlotFrame
  cases hcw : s.valid.cwOk with
  | false =>
    rw [checkGate_of_not_cwOk hcw, checkGate_of_not_cwOk (h.valid ▸ hcw)]
    exact h
  | true =>
    have hcw' : s'.valid.cwOk = true := h.valid ▸ hcw
    rw [checkGate_of_cwOk hcw, checkGate_of_cwOk hcw', checkBody_of_cwOk hcw, checkBody_of_cwOk hcw',
      h.hard hcw, h.valid] at hframes ⊢
    exact ⟨hframes, rfl, h.curCand, fun _ => rfl, fun _ => rfl, fun hf => nomatch hf⟩

theorem SameStage.unpackGate (h : SameStage s s') : SameStage (unpackGate s) (unpackGate s') := by
  have hframes := h.toSameInputs.of_frames (StageFrame.unpackGate s).toSlotFrame
    (StageFrame.unpackGate s').toSlotFrame
  cases hpay : s.valid.payOk with
  | false =>
    rw [unpackGate_of_not_payOk hpay, unpackGate_of_not_payOk (h.valid ▸ hpay)]
    exact h
  | true =>
    have hpay' : s'.valid.payOk = true := h.valid ▸ hpay
    have hmessage : unpackMessage s'.ht (message77 s'.a91) = unpackMessage s.ht (message77 s.a91) := by
      rw [h.ht, h.a91 hpay]
    rw [unpackGate_of_payOk hpay, unpackGate_of_payOk hpay'] at hframes ⊢
    cases hu : unpackMessage s.ht (message77 s.a91) with
    | error reason =>
      rw [unpackBody_of_error hpay hu, unpackBody_of_error hpay' (hmessage.trans hu), h.valid] at hframes ⊢
      exact ⟨hframes, rfl, h.curCand, h.hard, h.a91, fun hf => nomatch hf⟩
    | ok m =>
      rw [unpackBody_of_ok hpay hu, unpackBody_of_ok hpay' (hmessage.trans hu), h.valid] at hframes ⊢
      exact ⟨hframes, rfl, h.curCand, h.hard, h.a91, fun _ => rfl⟩

theorem SameInputs.candidateStages (h : SameInputs s s') {idx : Nat} (hs : s.Extractable idx) :
    SameStage (candidateStages idx s) (candidateStages idx s') :=
  (h.likelihoodStages hs).checkGate.unpackGate

end

/-! ### The results -/

/-- A record with the host's copies of `SLOT_SEQ` and `TIMESTAMP` replaced (R294). -/
def Record.stamped (seq time : Word) (r : Record) : Record :=
  { r with slotSeq := seq, timestamp := time }

/-- Side by side, the same dispositions, and the same records but for the host's copies (R312). -/
structure SameResults (s s' : State) : Prop where
  disp : s'.disp = s.disp
  res : s'.res = s.res.map (Record.stamped s'.slotSeq s'.timestamp)

section
variable {s s' : State}

/-- The record of a candidate with a message (R294). -/
theorem SameStage.recordOf (h : SameStage s s') (hchain : s.valid.Chained) (hmsg : s.valid.msgOk = true) :
    recordOf s' s'.curCand = Record.stamped s'.slotSeq s'.timestamp (recordOf s s.curCand) := by
  rw [Machine.recordOf, Machine.recordOf, h.candidate, h.curCand, h.msg hmsg, h.a91 (hchain.msg hmsg),
    h.baseBin]
  rfl

/-- The outcome of a candidate side by side: the copies in the records do not matter (R291, R292). -/
theorem SameStage.candidateOutcome (h : SameStage s s') (hchain : s.valid.Chained)
    (hres : s'.res = s.res.map (Record.stamped s'.slotSeq s'.timestamp)) :
    candidateOutcome s' = candidateOutcome s := by
  cases hdrop : dropCode s.valid with
  | some d =>
    rw [candidateOutcome_of_dropCode hdrop, candidateOutcome_of_dropCode (h.valid ▸ hdrop)]
  | none =>
    have hmsg := h.msg (hchain.dropCode_eq_none_iff.1 hdrop)
    have hdup : isDuplicate s' = isDuplicate s := by
      rw [isDuplicate, isDuplicate, hmsg, hres, List.any_map]
      rfl
    rw [candidateOutcome_of_passed hdrop, candidateOutcome_of_passed (h.valid ▸ hdrop), storeOutcome,
      storeOutcome, hdup, hres, List.length_map]

/-- The records after a candidate, side by side (R293, R294). -/
theorem SameStage.keepRecord (h : SameStage s s') (hchain : s.valid.Chained)
    (hres : s'.res = s.res.map (Record.stamped s'.slotSeq s'.timestamp)) :
    (keepRecord s').res = (keepRecord s).res.map (Record.stamped s'.slotSeq s'.timestamp) := by
  rw [Machine.keepRecord, Machine.keepRecord, h.candidateOutcome hchain hres]
  by_cases hstored : Machine.candidateOutcome s = .stored
  · have hmsg := hchain.dropCode_eq_none_iff.1 (passed_of_stored hstored).1
    simp only [if_pos hstored, h.recordOf hchain hmsg, hres, List.map_append, List.map_singleton]
  · simp only [if_neg hstored, hres]

end

/-! ### The loop -/

section
variable {s s' : State} (h : s.Inv) (h' : s'.Inv) (hstart : SameInputs (slotStart s) (slotStart s'))
include h h' hstart

/-- Both loops leave the same results after every candidate (R312). -/
theorem decodedUpTo_same {n : Nat} (hn : n ≤ (slotStart s).candCount.toNat) :
    SameInputs (decodedUpTo s n) (decodedUpTo s' n) ∧ SameResults (decodedUpTo s n) (decodedUpTo s' n) := by
  have hcount : (slotStart s').candCount.toNat = (slotStart s).candCount.toNat :=
    congrArg BitVec.toNat hstart.candCount
  induction n with
  | zero =>
    rw [decodedUpTo_zero, decodedUpTo_zero]
    refine ⟨hstart, ?_, ?_⟩
    · rw [slotStart_disp, slotStart_disp, ← (slotStart_frame s').cfg, hstart.cfg, (slotStart_frame s).cfg]
    · rw [slotStart_res, slotStart_res, List.map_nil]
  | succ n ih =>
    obtain ⟨hinputs, hdisp, hres⟩ := ih (Nat.le_of_succ_le hn)
    have hext := (decodedUpTo_frame h (Nat.le_of_succ_le hn)).extractable (slotStart_extractable h hn)
    obtain ⟨x, hx, hnext⟩ := decodedUpTo_succ h hn
    obtain ⟨x', hx', hnext'⟩ := decodedUpTo_succ h' (hcount ▸ hn)
    have hstage := hinputs.candidateStages hext
    have hchain := chained_candidateStages hext
    have hframe := StageFrame.candidateStages n (decodedUpTo s n)
    have hframe' := StageFrame.candidateStages n (decodedUpTo s' n)
    have hstageRes : (candidateStages n (decodedUpTo s' n)).res =
        (candidateStages n (decodedUpTo s n)).res.map (Record.stamped
          (candidateStages n (decodedUpTo s' n)).slotSeq
          (candidateStages n (decodedUpTo s' n)).timestamp) := by
      rw [hframe'.res, hframe.res, hframe'.slotSeq, hframe'.timestamp, hres]
    rw [hnext, hnext']
    refine ⟨hinputs.of_frames (.endsCandidate n _ x) (.endsCandidate n _ x'), ?_, ?_⟩
    · rw [State.withSlot_disp, State.withSlot_disp, hx, hx', hdisp,
        hstage.candidateOutcome hchain hstageRes]
    · rw [State.withSlot_res, State.withSlot_res, State.withSlot_slotSeq, State.withSlot_timestamp]
      exact hstage.keepRecord hchain hstageRes

end

/-- SYNC makes the same list of the same inputs (R140, R312). -/
theorem slotStart_same {s s' : State} (hcfg : s'.cfg = s.cfg) (hpm : ∀ c, s'.pmCell c = s.pmCell c)
    (hmin : s'.minScore = s.minScore) (hmax : s'.maxCand = s.maxCand) (hiter : s'.maxIter = s.maxIter)
    (hsync : s'.syncMap = s.syncMap) (hgray : s'.grayMap = s.grayMap) (hbase : s'.baseBin = s.baseBin)
    (hht : s'.ht = s.ht) : SameInputs (slotStart s) (slotStart s') := by
  have hkept : syncKept (slotEntry s') = syncKept (slotEntry s) :=
    syncKept_congr (s := slotEntry s) (s' := slotEntry s') hcfg hpm hmin hmax hsync
  have hframe := slotStart_frame s
  have hframe' := slotStart_frame s'
  exact {
    cfg := by rw [hframe'.cfg, hcfg, hframe.cfg]
    pmCell := fun c => by rw [hframe'.pmCell, hpm, hframe.pmCell]
    maxIter := by rw [hframe'.maxIter, hiter, hframe.maxIter]
    grayMap := by rw [hframe'.grayMap, hgray, hframe.grayMap]
    baseBin := by rw [hframe'.baseBin, hbase, hframe.baseBin]
    ht := hht
    cl := by rw [slotStart_cl, slotStart_cl, hkept, hcfg]
    candCount := by rw [slotStart_candCount, slotStart_candCount, hkept] }

/-- Settles O51: both start from the same list and leave the same results after its last candidate. -/
theorem decodeDependsOnlyOnItsInputs : Obligations.DecodeDependsOnlyOnItsInputs := by
  intro s s' t t' h h' hcfg hpm hmin hmax hiter hsync hgray hbase hht hexec hexec'
  have hstart := slotStart_same hcfg hpm hmin hmax hiter hsync hgray hbase hht
  obtain ⟨hinputs, hdisp, hres⟩ := decodedUpTo_same h h' hstart le_rfl
  have ht := Host.Outcome.next.inj (hexec.symm.trans (exec_decode h))
  have ht' := Host.Outcome.next.inj (hexec'.symm.trans (exec_decode h'))
  have hframe := (slotStart_frame s').trans
    (decodedUpTo_frame h' (congrArg BitVec.toNat hstart.candCount).ge).toEngineFrame
  rw [hframe.slotSeq, hframe.timestamp] at hres
  rw [hstart.candCount] at ht'
  generalize decodedUpTo s (slotStart s).candCount.toNat = d at *
  generalize decodedUpTo s' (slotStart s).candCount.toNat = d' at *
  subst ht ht'
  exact ⟨hinputs.cl, hinputs.candCount, hdisp, hres⟩

end Sys2Proof.Machine
end

section
/-! The stage-order check (R327): which commands raise `E_SEQ`, and what a refused stage leaves. -/

namespace Sys2Proof.Machine

open Sys2Proof

/-! ### The four stages -/

theorem ldpcBody_of_not_llrRdy {s : State} (h : s.valid.llrRdy = false) : ldpcBody s = .raised .seq s :=
  if_pos h

theorem checkBody_of_not_cwOk {s : State} (h : s.valid.cwOk = false) : checkBody s = .raised .seq s :=
  if_pos h

theorem unpackBody_of_not_payOk {s : State} (h : s.valid.payOk = false) :
    unpackBody s = .raised .seq s :=
  if_pos h

theorem storeBody_of_not_msgOk {s : State} (h : s.valid.msgOk = false) : storeBody s = .raised .seq s :=
  if_pos h

/-- A command whose body raises an error at once changes nothing but `STATUS` and the phase (R324). -/
theorem exec_of_raised {i : Instr} {s : State} {ph : Phase} {e : ErrCode}
    (h : commandBody i s = .raised e (s.enter ph)) :
    exec i s = .next { s with running := none, done := true, err := e, phase := .idle } := by
  rw [exec_eq, h]
  rfl

/-- Each stage raises `E_SEQ` exactly when its input flag is 0 (R327). -/
theorem ldpcBody_code_eq_seq_iff (s : State) : (ldpcBody s).code = .seq ↔ s.valid.llrRdy = false := by
  rcases ldpcBody_cases s with ⟨hflag, e⟩ | ⟨hflag, e⟩ <;> simp [e, hflag]

theorem checkBody_code_eq_seq_iff (s : State) : (checkBody s).code = .seq ↔ s.valid.cwOk = false := by
  rcases checkBody_cases s with ⟨hflag, e⟩ | ⟨hflag, e⟩ <;> simp [e, hflag]

theorem unpackBody_code_eq_seq_iff (s : State) : (unpackBody s).code = .seq ↔ s.valid.payOk = false := by
  rcases unpackBody_cases s with ⟨hflag, e⟩ | ⟨hflag, _, -, e⟩ | ⟨hflag, _, -, e⟩ <;> simp [e, hflag]

theorem storeBody_code_eq_seq_iff (s : State) : (storeBody s).code = .seq ↔ s.valid.msgOk = false := by
  rcases storeBody_cases s with ⟨hflag, e⟩ | ⟨hflag, -, e⟩ | ⟨hflag, -, -, e⟩ | ⟨hflag, -, -, e⟩ <;>
    simp [e, hflag]

/-! ### The other commands -/

/-- The errors of EXTRACT are `E_OPERAND` and `E_GEOM` (R161, R162). -/
theorem extractBody_code_ne_seq (idx : Nat) (s : State) : (extractBody idx s).code ≠ .seq := by
  rcases extractBody_cases idx s with ⟨-, e⟩ | ⟨-, -, e⟩ | ⟨-, -, e⟩ <;> rw [e] <;> exact nofun

/-- The errors of HTADD are `E_HT_INVALID` and `E_HT_FULL` (R273, R274). -/
theorem htaddBody_code_ne_seq (s : State) : (htaddBody s).code ≠ .seq := by
  rcases htaddBody_cases s with ⟨-, e⟩ | ⟨-, -, e⟩ | ⟨-, -, -, e⟩ | ⟨-, -, -, e⟩ <;> rw [e] <;>
    exact nofun

/-- DECODE issues each stage with its flag set, so it raises nothing (R321). -/
theorem decodeBody_code {s : State} (h : s.Inv) : (decodeBody s).code = .ok :=
  congrArg State.err (Host.Outcome.next.inj ((exec_eq .decode s).symm.trans (exec_decode h)))

/-- Settles O48: the code of a command is that of its body, and only the four stages raise `E_SEQ`. -/
theorem stagesRequireTheirInputFlag : Obligations.StagesRequireTheirInputFlag := by
  refine ⟨fun s i hmissing => ?refused, fun s t i hinv hexec hseq => ?only⟩
  case refused =>
    rcases hmissing with ⟨rfl, h⟩ | ⟨rfl, h⟩ | ⟨rfl, h⟩ | ⟨rfl, h⟩
    · exact exec_of_raised (ldpcBody_of_not_llrRdy (s := s.enter .ldpc) h)
    · exact exec_of_raised (checkBody_of_not_cwOk (s := s.enter .check) h)
    · exact exec_of_raised (unpackBody_of_not_payOk (s := s.enter .unpack) h)
    · exact exec_of_raised (storeBody_of_not_msgOk (s := s.enter .store) h)
  case only =>
    have hcode : (commandBody i s).code = .seq := by
      rw [exec_eq, Host.Outcome.next.injEq] at hexec
      rwa [← hexec] at hseq
    cases i with
    | ldpc => exact .inl ⟨rfl, (ldpcBody_code_eq_seq_iff (s.enter .ldpc)).1 hcode⟩
    | check => exact .inr (.inl ⟨rfl, (checkBody_code_eq_seq_iff (s.enter .check)).1 hcode⟩)
    | unpack => exact .inr (.inr (.inl ⟨rfl, (unpackBody_code_eq_seq_iff (s.enter .unpack)).1 hcode⟩))
    | store => exact .inr (.inr (.inr ⟨rfl, (storeBody_code_eq_seq_iff (s.enter .store)).1 hcode⟩))
    | extract idx => exact absurd hcode (extractBody_code_ne_seq idx _)
    | htadd => exact absurd hcode (htaddBody_code_ne_seq _)
    | decode => exact absurd ((decodeBody_code hinv).symm.trans hcode) nofun
    | nop | sync | clrres | htlook | htlook12 => cases hcode

end Sys2Proof.Machine
end

section
/-! What no command writes: the whole state after a command, field by field (10_state.md section 8). -/

namespace Sys2Proof.Machine

open Sys2Proof

/-- A state inside an engine frame, written as an update of the state before: everything the frame keeps
is taken from there. -/
theorem EngineFrame.eq_update {s t : State} (h : EngineFrame s t) :
    t = { s with
      running := t.running, done := t.done, err := t.err, phase := t.phase, candIdx := t.candIdx,
      curCand := t.curCand, valid := t.valid, candCount := t.candCount, cl := t.cl,
      disp := t.disp, llr := t.llr, hard := t.hard, a91 := t.a91, msg := t.msg,
      ldpcErrors := t.ldpcErrors, ldpcIter := t.ldpcIter, crcRx := t.crcRx,
      crcCalc := t.crcCalc, crcOk := t.crcOk, ufail := t.ufail, i3 := t.i3, n3 := t.n3,
      res := t.res, ht := t.ht, htKeyOut := t.htKeyOut, htTextOut := t.htTextOut } := by
  obtain ⟨hcfg, hie, hminScore, hmaxCand, hmaxIter, hsyncMap, hgrayMap, hbaseBin, hslotSeq, htimestamp,
    hcmdDropped, hbusyAcc, hbadAcc, hlastOp, hhtKeyIn, hhtLenIn, hhtTextIn, hpm, hresetEpoch, hinReset,
    hinputs, hreadData⟩ := h
  cases t
  subst_vars
  rfl

/-- Every command completes (R102). -/
theorem exec_completed {i : Instr} {s t : State} (h : exec i s = .next t) :
    t.running = none ∧ t.done = true ∧ t.phase = .idle := by
  rw [exec_eq, Host.Outcome.next.injEq] at h
  subst h
  exact ⟨rfl, rfl, rfl⟩

/-- Settles O8: a command stays inside the engine's frame, and completes. -/
theorem noCommandWritesWhatOnlyTheHostWrites : Obligations.NoCommandWritesWhatOnlyTheHostWrites := by
  intro i s t hexec
  have hframe := EngineFrame.exec hexec
  obtain ⟨hrunning, hdone, hphase⟩ := exec_completed hexec
  refine ⟨?_, hframe.pmCell⟩
  have hupdate := hframe.eq_update
  rwa [hrunning, hdone, hphase] at hupdate

end Sys2Proof.Machine
end

section
/-! The reset state (R351 and the table of 10_state.md section 8) and the reset input (R350, R352, R353). -/

namespace Sys2Proof.Machine

open Sys2Proof

/-! ### The values of the reset state -/

/-- A list of one value reads as that value everywhere, if it is also what stands beyond the end. -/
theorem getD_replicate_self {α : Type} (n : Nat) (x : α) (i : Nat) : (List.replicate n x).getD i x = x := by
  rw [List.getD_eq_getElem?_getD, List.getElem?_getD_replicate_default_eq]

section
variable (p : Config.Params)

/-- No cell of `PM` is written at reset (R352). -/
theorem resetWith_pmCell (c : Nat) : (State.resetWith p).pmCell c = Config.pmPowerUp 0 c := rfl

theorem resetWith_candidate (i : Nat) : (State.resetWith p).candidate i = Candidate.zero :=
  getD_replicate_self p.candCap _ i

theorem resetWith_llrAt (i : Nat) : (State.resetWith p).llrAt i = 0 :=
  congrArg BitVec.toInt (getD_replicate_self 174 0 i)

theorem resetWith_htTextIn_cellsWord (w : Nat) : cellsWord (State.resetWith p).htTextIn w = 0 := by
  simp only [State.resetWith_htTextIn, cellsWord, getD_replicate_self]
  rfl

/-- The status words of several fields are zero at reset, because each of their fields is. -/
theorem resetWith_statusWord : (State.resetWith p).statusWord = 0 :=
  BitVec.eq_of_toNat_eq (toNat_statusWord _)

theorem resetWith_seqWord : (State.resetWith p).seqWord = 0 :=
  BitVec.eq_of_toNat_eq (toNat_seqWord _)

theorem resetWith_toBits : (State.resetWith p).valid.toBits = 0 :=
  BitVec.eq_of_toNat_eq (toNat_toBits _)

theorem resetWith_crcStatWord : (State.resetWith p).crcStatWord = 0 :=
  BitVec.eq_of_toNat_eq (toNat_crcStatWord _)

theorem resetWith_msgStatWord : (State.resetWith p).msgStatWord = 0 :=
  BitVec.eq_of_toNat_eq (toNat_msgStatWord _)

/-- The sync pattern and the Gray map of the table (R33, R34). -/
theorem resetWith_syncTones : (List.range 7).map (syncTone (State.resetWith p).syncMap) =
    [3, 1, 4, 0, 6, 5, 2] := by
  rw [State.resetWith_syncMap]
  decide

theorem resetWith_grayTones : (List.range 8).map (grayTone (State.resetWith p).grayMap) =
    [0, 1, 3, 2, 5, 6, 4, 7] := by
  rw [State.resetWith_grayMap]
  decide

end

/-! ### The invariants at reset -/

/-- The reset state meets the invariant of a legal configuration: `CL`, `DISP` and `LLR` have their
lengths, `MAX_CAND` is `CAND_CAP`, all else is zero or empty (R351). -/
theorem resetWith_inv {p : Config.Params} (h : p.legal = true) : (State.resetWith p).Inv where
  legal := h
  cl := List.length_replicate
  disp := List.length_replicate
  llr := List.length_replicate
  htTextIn := List.length_replicate
  candCount := Nat.zero_le _
  maxCand := toNat_ofNat_le 7 _
  curCand := (Config.bounds_of_legal h).2.2.1
  candIdx := Nat.zero_le _
  htLenIn := Nat.zero_le _
  a91 := rfl
  msg := Msg.bounded_zero
  ldpcErrors := Nat.zero_le _
  resCount := Nat.zero_le _
  res _ hr := nomatch hr
  htCount := Nat.zero_le _
  htKeys := List.nodup_nil
  ht _ he := nomatch he
  htTextOut := Nat.zero_le _
  pm := rfl
  pmCells _ he := nomatch he
  phase _ := rfl

/-- At reset no flag of `VALID` stands for anything, and no record is stored (R351). -/
theorem resetWith_accepted (p : Config.Params) : (State.resetWith p).Accepted where
  codeword hf := nomatch hf
  payload hf := nomatch hf
  message hf := nomatch hf
  records _ hr := nomatch hr

/-- Settles O11: both hold of the reset values, field by field. -/
theorem resetMeetsTheInvariants : Obligations.ResetMeetsTheInvariants :=
  fun p h => ⟨resetWith_inv h, resetWith_accepted p⟩

/-! ### The reset table -/

/-- The registers that show the configuration, read at reset (R38, R42). -/
theorem resetWith_geometryWords {p : Config.Params} (h : p.legal = true) :
    (readLocation (State.resetWith p) .geom0).toNat = p.numBlocks * 2 ^ 16 + p.numBins ∧
    (readLocation (State.resetWith p) .geom1).toNat = p.candCap * 2 ^ 16 + 2 * 2 ^ 8 + p.timeOsr ∧
    (readLocation (State.resetWith p) .htInfo).toNat = p.htCap * 2 ^ 16 := by
  have hinv := resetWith_inv h
  refine ⟨?geom0, ?geom1, ?htInfo⟩
  case geom0 =>
    rw [toNat_geom0Word hinv.legal, State.resetWith_cfg]
    ring
  case geom1 =>
    rw [toNat_geom1Word hinv.legal, State.resetWith_cfg]
    ring
  case htInfo =>
    rw [toNat_htInfoWord hinv, State.resetWith_cfg, State.resetWith_ht, List.length_nil]
    ring

/-- Settles O10: five words read on the host port, and then the table row by row. -/
theorem resetStateHoldsTheTablesValues : Obligations.ResetStateHoldsTheTablesValues := by
  intro p h
  obtain ⟨hgeom0, hgeom1, hhtInfo⟩ := resetWith_geometryWords h
  have hcap : p.candCap < 2 ^ 7 := (Config.bounds_of_legal h).2.2.2.1.trans_lt (by decide)
  have word := @toNat_hostRead_addr (State.resetWith p) rfl rfl
  exact ⟨word .id trivial rfl, word .cmd trivial rfl, word .geom0 trivial hgeom0,
    word .geom1 trivial hgeom1, word .htInfo trivial hhtInfo,
    resetWith_statusWord p, resetWith_seqWord p, rfl, resetWith_toBits p, rfl,
    rfl, toNat_ofNat_of_lt hcap, rfl, rfl, rfl, resetWith_syncTones p, resetWith_grayTones p,
    rfl, rfl, rfl, rfl, resetWith_candidate p, resetWith_llrAt p, fun _ => List.eq_of_mem_replicate,
    rfl, rfl, rfl, rfl, rfl, resetWith_crcStatWord p, resetWith_msgStatWord p,
    rfl, rfl, rfl, rfl, rfl, resetWith_htTextIn_cellsWord p, rfl, resetWith_pmCell p⟩

/-! ### The reset input -/

section
variable {s : State}

theorem step_assertReset {rest : List Event} (h : s.inputs = .assertReset :: rest) :
    step s = .next { s with inputs := rest, inReset := true } := by
  simp [step, nextEvent, h]

theorem step_releaseReset {rest : List Event} (h : s.inputs = .releaseReset :: rest) :
    step s = .next (releaseReset { s with inputs := rest }) := by
  simp [step, nextEvent, h]

variable (hr : s.inReset = true)
include hr

/-- While reset is asserted the engine does nothing, a read returns 0, and a write has no effect (R350). -/
theorem engineTurn_of_inReset : engineTurn s = .next s :=
  if_pos hr

theorem hostRead_of_inReset (a : Nat) : hostRead a s = { s with readData := 0 } :=
  if_pos hr

theorem hostWrite_of_inReset (a : Nat) (v : Word) : hostWrite a v s = s :=
  if_pos hr

/-- The release of an asserted reset (R350 to R353). -/
theorem releaseReset_of_inReset : releaseReset s = s.afterReset :=
  if_pos hr

end

/-- After a release `PM` holds the free bytes of the next number (R352). -/
theorem afterReset_pmCell (s : State) (c : Nat) :
    s.afterReset.pmCell c = Config.pmPowerUp (s.resetEpoch + 1) c := rfl

/-- Settles O14, event by event. -/
theorem resetAbandonsEverything : Obligations.ResetAbandonsEverything := by
  refine ⟨fun s rest hin => step_assertReset hin, fun s rest hr => ?_⟩
  -- Taking an event from those that wait leaves reset asserted.
  have hr' : ({ s with inputs := rest } : State).inReset = true := hr
  exact ⟨
    fun hin => ⟨_, (step_releaseReset hin).trans (congrArg _ (releaseReset_of_inReset hr')), rfl,
      afterReset_pmCell _⟩,
    fun hin => (step_engine hin).trans (engineTurn_of_inReset hr'),
    fun hin => (step_of_no_inputs hin).trans (engineTurn_of_inReset hr),
    fun a hin => (step_read hin).trans (congrArg _ (hostRead_of_inReset hr' _)),
    fun a v hin => (step_write hin).trans (congrArg _ (hostWrite_of_inReset hr' _ v))⟩

end Sys2Proof.Machine
end

section
/-! The kind CQ (R233): a standard message has it exactly when its first field says CQ, a nonstandard one
exactly when its CQ flag is set. -/

namespace Sys2Proof.Machine

open Sys2Proof

/-! ### Texts that say CQ -/

/-- The destination text is `CQ`, alone or before a space (R233). -/
abbrev SaysCq (t : Text) : Prop := t = ascii ['C', 'Q'] ∨ ascii ['C', 'Q', ' '] <+: t

/-- The first three characters of such a text. -/
theorem SaysCq.chars {t : Text} (h : SaysCq t) :
    t[0]? = some 0x43 ∧ t[1]? = some 0x51 ∧ (t[2]? = none ∨ t[2]? = some spaceByte) := by
  rcases h with rfl | ⟨rest, rfl⟩
  · exact ⟨rfl, rfl, .inl rfl⟩
  · exact ⟨rfl, rfl, .inr rfl⟩

/-- The first token that is `CQ` is the token 2 (R222). -/
theorem saysCq_token3_iff {n : Nat} (h : n ≤ 2) : SaysCq (token3 n) ↔ n = 2 := by
  interval_cases n
  · exact iff_of_false (fun h => absurd h.chars.1 (by decide)) (by decide)
  · exact iff_of_false (fun h => absurd h.chars.1 (by decide)) (by decide)
  · exact iff_of_true (.inl rfl) rfl

theorem saysCq_cqNnn (v : Nat) : SaysCq (cqNnn v) := .inr (List.prefix_append _ _)

theorem saysCq_cqAaaa (v : Nat) : SaysCq (cqAaaa v) := by
  simp only [cqAaaa]
  split
  · exact .inl rfl
  · exact .inr (List.prefix_append _ _)

/-- A hashed callsign begins with `<`, found or not (R225). -/
theorem not_saysCq_hashText (found : Option Slot) : ¬ SaysCq (hashText found).1 := by
  intro h
  cases found with
  | none => exact absurd h.chars.1 (by decide)
  | some e => exact absurd h.chars.1 (by simp [hashText, ascii])

/-! ### Standard callsigns -/

/-- Dropping elements from the end stops at one that stays. -/
theorem prefix_rdropWhile {α : Type} {p : α → Bool} {b : α} (hb : ¬ p b) (front rest : List α) :
    front ++ [b] <+: (front ++ [b] ++ rest).rdropWhile p := by
  induction rest using List.reverseRecOn with
  | nil => rw [List.append_nil, List.rdropWhile_concat_neg _ _ _ hb]
  | append_singleton rest x ih =>
    rw [← List.append_assoc]
    by_cases hx : p x
    · rwa [List.rdropWhile_concat_pos _ _ _ hx]
    · rw [List.rdropWhile_concat_neg _ _ _ hx, List.append_assoc]
      exact List.prefix_append _ _

/-- Trimming keeps what stands before a character that is no space, if it begins with none (R12). -/
theorem prefix_trim {a b : Byte} (ha : a ≠ spaceByte) (hb : b ≠ spaceByte) (front rest : Text) :
    a :: front ++ [b] <+: trim (a :: front ++ [b] ++ rest) := by
  have hkeep : trim (a :: front ++ [b] ++ rest) =
      (a :: front ++ [b] ++ rest).rdropWhile (· == spaceByte) := by
    simp [trim, List.rdropWhile, ha]
  rw [hkeep]
  exact prefix_rdropWhile (by simpa using hb) (a :: front) rest

/-- Trimming drops a leading space (R12). -/
theorem trim_space_cons (t : Text) : trim (spaceByte :: t) = trim t := by
  simp [trim]

/-- No decimal digit is `Q` or the space, what the second and third characters of a CQ text are (R118). -/
theorem tableAt_table10_ne {d : Nat} (hd : d < 10) :
    tableAt table10 d ≠ 0x51 ∧ tableAt table10 d ≠ spaceByte := by
  interval_cases d <;> decide

theorem tableAt_table36_ne_space {d : Nat} (hd : d < 36) : tableAt table36 d ≠ spaceByte := by
  interval_cases d <;> decide

/-- A standard callsign has, after one or two characters, a digit (R226). -/
theorem stdCall_digit (v : Nat) (ip : Bool) (i3 : Nat) :
    ∃ front : Text, ∃ d < 10, (front.length = 1 ∨ front.length = 2) ∧
      front ++ [tableAt table10 d] <+: stdCall v ip i3 := by
  have hd : v / (27 * 27 * 27) % 10 < 10 := Nat.mod_lt _ (by decide)
  have hdigit := (tableAt_table10_ne hd).2
  have hsecond : tableAt table36 (v / (27 * 27 * 27 * 10) % 36) ≠ spaceByte :=
    tableAt_table36_ne_space (Nat.mod_lt _ (by decide))
  have hprefix : trim (stdChars v) <+: stdCall v ip i3 := by
    simp only [stdCall]
    split_ifs
    · exact List.prefix_append _ _
    · exact List.prefix_append _ _
    · exact List.prefix_refl _
  by_cases hfirst : tableAt table37 (v / (27 * 27 * 27 * 10 * 36)) = spaceByte
  · have htail : trim (stdChars v) = trim (stdChars v).tail := by
      rw [stdChars, hfirst]
      exact trim_space_cons _
    rw [htail] at hprefix
    exact ⟨[_], _, hd, .inl rfl, (prefix_trim hsecond hdigit [] _).trans hprefix⟩
  · exact ⟨[_, _], _, hd, .inr rfl, (prefix_trim hfirst hdigit [_] _).trans hprefix⟩

/-- A standard callsign never says CQ: `CQ` has no digit (R226). -/
theorem not_saysCq_stdCall (v : Nat) (ip : Bool) (i3 : Nat) : ¬ SaysCq (stdCall v ip i3) := by
  intro h
  obtain ⟨-, hsecond, hthird⟩ := h.chars
  obtain ⟨front, d, hd, hlen, rest, ht⟩ := stdCall_digit v ip i3
  obtain ⟨hq, hspace⟩ := tableAt_table10_ne hd
  have hget : (stdCall v ip i3)[front.length]? = some (tableAt table10 d) := by
    rw [← ht, List.append_assoc]
    simp
  rcases hlen with hlen | hlen <;> rw [hlen] at hget
  · exact hq (Option.some.inj (hget.symm.trans hsecond))
  · rcases hthird with hnone | hsome
    · exact nomatch hget.symm.trans hnone
    · exact hspace (Option.some.inj (hget.symm.trans hsome))

/-! ### The destination field -/

/-- The text of a 28-bit field says CQ exactly when the field is in the range of R233. -/
theorem saysCq_call28_iff {ht : List Slot} {n : Nat} {ip : Bool} {i3 : Nat} {a : Text × Bool}
    (h : call28 ht n ip i3 = .ok a) : SaysCq a.1 ↔ 2 ≤ n ∧ n ≤ 532443 := by
  have hn : nTokens = 2063592 := rfl
  rcases call28_cases ht n ip i3 with ⟨hle, e⟩ | ⟨hlo, hhi, e⟩ | ⟨hlo, hhi, e⟩ | ⟨-, -, e⟩ |
    ⟨hlo, -, e⟩ | ⟨hlo, e⟩ <;> rw [e] at h <;> cases h
  · rw [saysCq_token3_iff hle]
    omega
  · exact iff_of_true (saysCq_cqNnn _) (by omega)
  · exact iff_of_true (saysCq_cqAaaa _) (by omega)
  · exact iff_of_false (not_saysCq_hashText _) (by omega)
  · exact iff_of_false (not_saysCq_stdCall _ _ _) (by omega)

/-! ### The kinds -/

theorem third_kind_ne_cq {g : Nat} {ir : Bool} {t : ThirdField} (h : third g ir = .ok t) :
    t.kind ≠ .cq := by
  rcases third_cases g ir with ⟨-, e⟩ | ⟨-, e⟩ | ⟨-, e⟩ | ⟨-, e⟩ | ⟨-, e⟩ | ⟨-, e⟩ | ⟨-, -, e⟩ <;>
    rw [e] at h
  · cases h
    dsimp only
    split <;> decide
  · cases h
  · cases h; decide
  · cases h; decide
  · cases h; decide
  · cases h; decide
  · cases ir <;> cases h <;> exact nofun

/-- Without the override only the base kind can be CQ (R233). -/
theorem classify_ne_cq {base : Kind} (h : base ≠ .cq) (miss : Bool) : classify base miss false ≠ .cq := by
  cases miss
  · exact h
  · exact nofun

theorem nonstdEnd_kind_ne_cq (nrpt : Nat) : (nonstdEnd nrpt).2 ≠ .cq := by
  unfold nonstdEnd
  split <;> decide

/-- A standard message is of the kind CQ exactly when its destination field says so (R233). -/
theorem stdMsg_kind_eq_cq_iff {n28a : Nat} {a b : Text × Bool} {t : ThirdField} {ir : Bool}
    (ht : t.kind ≠ .cq) : (stdMsg n28a a b t ir).kind = .cq ↔ 2 ≤ n28a ∧ n28a ≤ 532443 := by
  rw [stdMsg_kind]
  split_ifs with hcq hmiss
  · exact iff_of_true rfl hcq
  · exact iff_of_false nofun hcq
  · exact iff_of_false ht hcq

/-- Settles O38: the first field of a standard message says CQ in the range that sets the kind, and no
other field gives the kind CQ. -/
theorem cqIsTheKindExactlyWhenTheDestinationIsCq :
    Obligations.CqIsTheKindExactlyWhenTheDestinationIsCq := by
  refine fun ht m r h => ⟨fun hi3 => ?std, fun hi3 => ?nonstd, fun hi3 => ?plain⟩
  case std =>
    rw [unpackMessage_of_std ht hi3] at h
    obtain ⟨a, b, t, ha, -, hthird, rfl⟩ := unpackStd_ok h
    exact (stdMsg_kind_eq_cq_iff (third_kind_ne_cq hthird)).trans (saysCq_call28_iff ha).symm
  case nonstd =>
    rw [unpackMessage_of_nonstd ht hi3] at h
    obtain ⟨-, -, ⟨hcq, rfl⟩ | ⟨hcq, rfl⟩⟩ := unpackNonstd_ok h
    · exact iff_of_true rfl hcq
    · exact iff_of_false (classify_ne_cq (nonstdEnd_kind_ne_cq _) _) (by simp [hcq])
  case plain =>
    rcases unpackMessage_cases ht m with ⟨-, -, e⟩ | ⟨-, -, e⟩ | ⟨h12, -⟩ | ⟨h4, -⟩ | ⟨-, e⟩
    · rw [e] at h
      exact .inl (congrArg Msg.kind (unpackFree_ok h).2)
    · rw [e] at h
      exact .inr (congrArg Msg.kind (unpackTelemetry_ok h))
    · exact absurd (h12.imp hi3.symm.trans hi3.symm.trans) (by decide)
    · exact absurd (hi3.symm.trans h4) (by decide)
    · rw [e] at h
      cases h

end Sys2Proof.Machine
end
